-- ==== Sys2Proof/Word.lean ====
section
/-! DEFINITION. The widths of the values the core handles (spec R6, R16, R45, R52): names for bit vectors, nothing else. -/

namespace Sys2Proof

/-- A data value `D` (R6: `W_BYTE` is 8). -/
abbrev Byte := BitVec 8

/-- A codeword (R17: a bit vector of width 10; index 0 is transmitted first and is the least significant bit). -/
abbrev Codeword := BitVec 10

/-- A packed control pair `p = c0 + 2 * c1` (R54). -/
abbrev PackedPair := BitVec 2

/-- A request word (R45). -/
abbrev RequestWord := BitVec 32

/-- An operand field `a` or `b` of a request word (R45: 12 bits, wider than any legal operand). -/
abbrev Field := BitVec 12

/-- The field `aux`, and the field `op`, of a request word (R45). -/
abbrev Nibble := BitVec 4

/-- A set of codewords as its 1024-bit membership mask: bit `c` is 1 exactly when `c` is in the set (R52). -/
abbrev CodewordSet := BitVec 1024

end Sys2Proof
end

