-- ==== Sys2Proof/Config.lean ====
section
/-! DEFINITION. The two parameters of the core (spec R7, R8; R9: there is no other) and their default values. -/

namespace Sys2Proof

/-- Parameter `BAL_POLARITY` (R8): which single codeword stage 2 emits for a byte whose base word is balanced.
`followX` is the normative value (conflict C1); `alwaysDirect` is the literal text of the source's section 4.2. -/
inductive BalPolarity where
  | followX
  | alwaysDirect
deriving DecidableEq, Repr

/-- Parameter `CTRL_TABLE` (R7, R87): one codeword for each control pair; the field `cw<c0><c1>` is the codeword of
`(c0, c1)`. -/
structure CtrlTable where
  cw00 : Codeword
  cw10 : Codeword
  cw01 : Codeword
  cw11 : Codeword
deriving DecidableEq, Repr

/-- The configuration of a core: fixed when the hardware is built, written by no step (R13). -/
structure Config where
  ctrlTable : CtrlTable
  balPolarity : BalPolarity
deriving DecidableEq, Repr

/-- The default control codewords (R89). PRESUMED: the spec takes them from general knowledge, the source prints none
(log 2); unsafe. -/
def CtrlTable.default : CtrlTable :=
  { cw00 := 0x354, cw10 := 0x0AB, cw01 := 0x154, cw11 := 0x2AB }

/-- The default configuration (R7, R8). -/
def Config.default : Config :=
  { ctrlTable := CtrlTable.default, balPolarity := .followX }

end Sys2Proof
end

