-- ==== Sys2Proof/Machine/Primitives.lean ====
section
/-! DEFINITION. The bit-vector primitives (spec R59 to R70, R74) and the set primitives of R52. Counts are natural numbers,
`bias` is an integer (R71). -/

namespace Sys2Proof.Machine

/-- The digits `v[0], …, v[k-1]` of an integer, index 0 first: `v[i] = ⌊x / 2^i⌋ mod 2` (R11, R60). -/
def digits : Nat → Nat → List Bool
  | 0, _ => []
  | k + 1, x => Nat.beq (x % 2) 1 :: digits k (x / 2)

/-- The bits of a vector, index 0 first: the tuples of the spec (R11). -/
def bitsOf {n : Nat} (v : BitVec n) : List Bool := digits n v.toNat

/-- The integer whose digits, index 0 first, are the list: `Σ v[i]·2^i` (R11, R61). -/
def valueOf : List Bool → Nat
  | [] => 0
  | b :: rest => b.toNat + 2 * valueOf rest

/-- The vector of width `n` whose bits, index 0 first, are the list (R11). -/
def ofBits (n : Nat) (l : List Bool) : BitVec n := BitVec.ofNat n (valueOf l)

/-- `fromInteger(x, n)` (R60): no value outside `[0, 2^n)`, never truncated (R132). -/
def fromInteger (x : Int) (n : Nat) : Option (BitVec n) :=
  if 0 ≤ x ∧ x < 2 ^ n then some (BitVec.ofNat n x.toNat) else none

/-- `toInteger(v)` (R61). -/
def toInteger {n : Nat} (v : BitVec n) : Int := (valueOf (bitsOf v) : Int)

/-- The direction of a rotation (R62). -/
inductive Direction where
  | left
  | right
deriving DecidableEq, Repr

/-- `rotate(v, dir)` by one position (R62; decision D9). LEFT on the integer is `(2x mod 2^n) + ⌊x / 2^(n-1)⌋`; RIGHT is
its inverse, bit 0 moving to index `n - 1`. -/
def rotate {n : Nat} (v : BitVec n) : Direction → BitVec n
  | .left => BitVec.ofNat n (2 * v.toNat % 2 ^ n + v.toNat / 2 ^ (n - 1))
  | .right => BitVec.ofNat n (v.toNat / 2 + (v.toNat % 2) * 2 ^ (n - 1))

/-- `rotl^k(v)`: `k` applications of `rotate(·, LEFT)` (R62). -/
def rotl {n : Nat} : Nat → BitVec n → BitVec n
  | 0, v => v
  | k + 1, v => rotl k (rotate v .left)

/-- `invert(v)` (R63). -/
def invert {n : Nat} (v : BitVec n) : BitVec n := ~~~v

/-- `xor` on single bits (R64). PRESUMED: the truth table is general knowledge (log 12); unsafe. -/
def xorBit (a b : Bool) : Bool := a != b

/-- `xnor` on single bits (R65). PRESUMED: the truth table is general knowledge (log 12); unsafe. -/
def xnorBit (a b : Bool) : Bool := a == b

/-- The number of adjacent positions of a list that differ. -/
def adjacentChanges : List Bool → Nat
  | [] => 0
  | [_] => 0
  | a :: b :: rest => (xorBit a b).toNat + adjacentChanges (b :: rest)

/-- `transitions(v)` (R66): linear, index `n - 1` and index 0 are not adjacent (decision D10). -/
def transitions {n : Nat} (v : BitVec n) : Nat := adjacentChanges (bitsOf v)

/-- The sum of the first `k` binary digits of an integer. -/
def digitSum : Nat → Nat → Nat
  | 0, _ => 0
  | k + 1, x => x % 2 + digitSum k (x / 2)

/-- `ones(v) = Σ v[i]` (R67). -/
def ones {n : Nat} (v : BitVec n) : Nat := digitSum n v.toNat

/-- `zeros(v) = n - ones(v)` (R68). -/
def zeros {n : Nat} (v : BitVec n) : Nat := n - ones v

/-- `bias(v) = ones(v) - zeros(v)` (R69). -/
def bias {n : Nat} (v : BitVec n) : Int := (ones v : Int) - (zeros v : Int)

/-- `hamming(a, b) = Σ xor(a[i], b[i])` (R70): the ones of the position-wise `xor` (R74 (c)). Two vectors of different
widths are values of different types, so the case of unequal lengths cannot be written (decision D11). -/
def hamming {n : Nat} (a b : BitVec n) : Nat := ones (a ^^^ b)

/-- All 256 bytes in rising order. -/
def allBytes : List Byte := (List.range 256).map (BitVec.ofNat 8)

/-- All 1024 codewords in rising order. -/
def allCodewords : List Codeword := (List.range 1024).map (BitVec.ofNat 10)

/-- `c ∈ S` (R52): bit `c` of the mask. -/
def inSet (c : Codeword) (s : CodewordSet) : Bool := s.getLsbD c.toNat

/-- The set that holds exactly `c`. -/
def singleton (c : Codeword) : CodewordSet := BitVec.ofNat 1024 (2 ^ c.toNat)

/-- The set of the codewords of a list (R52: `mask`). -/
def setOf (l : List Codeword) : CodewordSet := l.foldl (fun s c => s ||| singleton c) 0

/-- The elements of a set in rising order (R52). -/
def members (s : CodewordSet) : List Codeword := allCodewords.filter fun c => inSet c s

/-- `|S|` (R52). -/
def card (s : CodewordSet) : Nat := (members s).length

end Sys2Proof.Machine
end

