-- ==== Sys2Proof/Machine/ControlTable.lean ====
section
/-! DEFINITION. The control-token table (spec R87 to R90): forward and reverse lookup. -/

namespace Sys2Proof.Machine

/-- The four control pairs `(c0, c1)` in the order of the registry build (R94): (0,0), (1,0), (0,1), (1,1). -/
def allPairs : List (Bool × Bool) := [(false, false), (true, false), (false, true), (true, true)]

/-- `ctrlForward(c0, c1) = CTRL_TABLE(c0, c1)` (R90). -/
def ctrlForward (t : CtrlTable) (c0 c1 : Bool) : Codeword :=
  match c0, c1 with
  | false, false => t.cw00
  | true, false => t.cw10
  | false, true => t.cw01
  | true, true => t.cw11

/-- `ctrlReverse(c)` (R90): the pair whose codeword is `c`, none if there is none. -/
def ctrlReverse (t : CtrlTable) (c : Codeword) : Option (Bool × Bool) :=
  allPairs.find? fun p => ctrlForward t p.1 p.2 == c

/-- A control pair packed as `c0 + 2 * c1` (R54). -/
def packPair (c0 c1 : Bool) : PackedPair := BitVec.ofNat 2 (c0.toNat + 2 * c1.toNat)

/-- `c0` of a packed pair (R54: `p[0] = c0`). -/
def pairC0 (p : PackedPair) : Bool := p.getLsbD 0

/-- `c1` of a packed pair (R54: `p[1] = c1`). -/
def pairC1 (p : PackedPair) : Bool := p.getLsbD 1

end Sys2Proof.Machine
end

