-- ==== Sys2Proof/Machine/Encoder.lean ====
section
/-! DEFINITION. The two-stage per-byte encoder (spec R75 to R81): a pure function of the byte and of `BAL_POLARITY`. -/

namespace Sys2Proof.Machine

/-- The operator choice of stage 1 (R76). -/
def useXnor (d : Byte) : Bool :=
  decide (ones d > 4) || (decide (ones d = 4) && !d.getLsbD 0)

/-- The bits `base[k], base[k+1], …` from `base[k-1]` and `D[k], D[k+1], …`: the first argument of the operator is the
previous OUTPUT bit (R77). -/
def chain (op : Bool → Bool → Bool) (previous : Bool) : List Bool → List Bool
  | [] => []
  | d :: rest => op previous d :: chain op (op previous d) rest

/-- `base[0] = D[0]`, then the chain (R77). -/
def baseBits (op : Bool → Bool → Bool) : List Bool → List Bool
  | [] => []
  | d :: rest => d :: chain op d rest

/-- Stage 1 (R77): the base word. -/
def baseWord (d : Byte) : Byte :=
  if useXnor d then ofBits 8 (baseBits xnorBit (bitsOf d)) else ofBits 8 (baseBits xorBit (bitsOf d))

/-- The flag bit `X` (R78): 0 if XNOR was used, 1 if XOR was used. -/
def flagX (d : Byte) : Bool := !useXnor d

/-- `payload ++ [x] ++ [i]` (R12, R17): the payload at indices 0 to 7, `X` at index 8, `I` at index 9. -/
def joinCodeword (payload : Byte) (x i : Bool) : Codeword :=
  BitVec.ofNat 10 (payload.toNat + 256 * x.toNat + 512 * i.toNat)

/-- Codeword bits 0 to 7 (R17). -/
def payloadOf (c : Codeword) : Byte := BitVec.ofNat 8 (c.toNat % 256)

/-- Codeword bit 8, `X` (R17). -/
def bitX (c : Codeword) : Bool := c.getLsbD 8

/-- Codeword bit 9, `I` (R17). -/
def bitI (c : Codeword) : Bool := c.getLsbD 9

/-- The direct codeword `base ++ [X] ++ [0]` (R79). -/
def directCodeword (base : Byte) (x : Bool) : Codeword := joinCodeword base x false

/-- The inverted codeword `invert(base) ++ [X] ++ [1]` (R79). -/
def invertedCodeword (base : Byte) (x : Bool) : Codeword := joinCodeword (invert base) x true

/-- Stage 2 (R79, R80): the candidates, the direct one first. A balanced base word has one codeword: under `FOLLOW_X` the
one with `I = ¬X`, under `ALWAYS_DIRECT` the direct one (conflict C1). -/
def stage2 (pol : BalPolarity) (base : Byte) (x : Bool) : List Codeword :=
  if bias base ≠ 0 then [directCodeword base x, invertedCodeword base x]
  else
    match pol with
    | .followX => if x then [directCodeword base x] else [invertedCodeword base x]
    | .alwaysDirect => [directCodeword base x]

/-- `encode(D)` (R75, R81). -/
def encodeByte (pol : BalPolarity) (d : Byte) : List Codeword := stage2 pol (baseWord d) (flagX d)

end Sys2Proof.Machine
end

