-- ==== Sys2Proof/Machine/Registry.lean ====
section
/-! DEFINITION. The token registry (spec R21, R22, R28, R29, R94 to R105): the read-only tables as functions of the
configuration (R22: "tables or the functions that define them", log 9), the build procedure with its checks, the
classification, the sets DATA, CTRL, VALID and FORB, and the derived direct decoder. -/

namespace Sys2Proof.Machine

/-! ### The four read-only tables -/

/-- `ROM.DATA_FWD[d]` (R28, R95): the candidates of the byte, in the order of R80. -/
def romDataFwd (cfg : Config) (d : Byte) : List Codeword := encodeByte cfg.balPolarity d

/-- `dataReverse` (R96): the byte whose candidates hold `c`, none if there is none. -/
def dataReverse (pol : BalPolarity) (c : Codeword) : Option Byte :=
  allBytes.find? fun d => (encodeByte pol d).contains c

/-- `ROM.DATA_REV[c]` (R28, R96). -/
def romDataRev (cfg : Config) (c : Codeword) : Option Byte := dataReverse cfg.balPolarity c

/-- `ROM.CTRL_FWD[p]` (R28, R97). -/
def romCtrlFwd (cfg : Config) (p : PackedPair) : Codeword := ctrlForward cfg.ctrlTable (pairC0 p) (pairC1 p)

/-- `ROM.CTRL_REV[c]` (R28, R97). -/
def romCtrlRev (cfg : Config) (c : Codeword) : Option (Bool × Bool) := ctrlReverse cfg.ctrlTable c

/-! ### Classification -/

/-- A symbol (R18): exactly one of a data byte, a control pair `(c0, c1)`, or no defined meaning. -/
inductive Symbol where
  | data (byte : Byte)
  | control (c0 c1 : Bool)
  | forbidden
deriving DecidableEq, Repr

/-- `classify(c)` (R100): the 10b/8b decoder; `dataReverse` first, then `ctrlReverse`, otherwise forbidden
(log 20 for a configuration that does not build). -/
def classify (cfg : Config) (c : Codeword) : Symbol :=
  match romDataRev cfg c with
  | some d => .data d
  | none =>
    match romCtrlRev cfg c with
    | some p => .control p.1 p.2
    | none => .forbidden

/-! ### The sets of codewords -/

/-- `DATA = dom(dataReverse)` (R96, R103): every candidate of every byte. -/
def dataSet (pol : BalPolarity) : CodewordSet := setOf (allBytes.flatMap (encodeByte pol))

/-- `CTRL = dom(ctrlReverse)` (R97, R103): the control codewords. -/
def ctrlSet (t : CtrlTable) : CodewordSet := setOf (allPairs.map fun p => ctrlForward t p.1 p.2)

/-- `VALID = DATA ∪ CTRL` (R103, R116). -/
def validSet (cfg : Config) : CodewordSet := dataSet cfg.balPolarity ||| ctrlSet cfg.ctrlTable

/-- The codewords that `classify` calls control: those of CTRL that DATA does not hold (R100). -/
def controlSet (cfg : Config) : CodewordSet := ctrlSet cfg.ctrlTable &&& ~~~dataSet cfg.balPolarity

/-- `FORB` (R103, R109): defined by exclusion. -/
def forbiddenSet (cfg : Config) : CodewordSet := ~~~validSet cfg

/-! ### Building the registry -/

/-- A partial map from codewords, as the build fills it: its domain and its entries. -/
structure PartialMap (α : Type) where
  domain : CodewordSet
  entries : List (Codeword × α)
deriving DecidableEq, Repr

/-- The empty map. -/
def emptyMap {α : Type} : PartialMap α := { domain := 0, entries := [] }

/-- One assignment `m[c] <- v` of the build (R94): it fails if `c` is in the domain already. -/
def claim {α : Type} (m : PartialMap α) (c : Codeword) (v : α) : Option (PartialMap α) :=
  if inSet c m.domain then none
  else some { domain := m.domain ||| singleton c, entries := (c, v) :: m.entries }

/-- The entry of a map at a codeword, none outside its domain (R29). -/
def lookupMap {α : Type} (m : PartialMap α) (c : Codeword) : Option α := m.entries.lookup c

/-- The registry as the build returns it (R21, R94). -/
structure Registry where
  dataForward : List (Byte × List Codeword)
  dataReverse : PartialMap Byte
  ctrlForward : List ((Bool × Bool) × Codeword)
  ctrlReverse : PartialMap (Bool × Bool)
deriving DecidableEq, Repr

/-- The registry before the first assignment. -/
def emptyRegistry : Registry :=
  { dataForward := [], dataReverse := emptyMap, ctrlForward := [], ctrlReverse := emptyMap }

/-- The build's step for one byte (R94). -/
def buildByte (pol : BalPolarity) (r : Registry) (d : Byte) : Option Registry :=
  match (encodeByte pol d).foldlM (fun m c => claim m c d) r.dataReverse with
  | none => none
  | some m => some { r with dataForward := (d, encodeByte pol d) :: r.dataForward, dataReverse := m }

/-- The build's step for one control pair (R94, R98): fails on fewer than 7 transitions (R88 (b)), on a codeword that is
a data codeword, and on one that another pair has. -/
def buildPair (t : CtrlTable) (r : Registry) (p : Bool × Bool) : Option Registry :=
  if transitions (ctrlForward t p.1 p.2) < 7 then none
  else if inSet (ctrlForward t p.1 p.2) r.dataReverse.domain then none
  else
    match claim r.ctrlReverse (ctrlForward t p.1 p.2) p with
    | none => none
    | some m => some { r with ctrlForward := (p, ctrlForward t p.1 p.2) :: r.ctrlForward, ctrlReverse := m }

/-- `build(CTRL_TABLE, BAL_POLARITY)` (R94): none is `fail(BUILD_COLLISION)`. -/
def build (cfg : Config) : Option Registry :=
  match allBytes.foldlM (buildByte cfg.balPolarity) emptyRegistry with
  | none => none
  | some r => allPairs.foldlM (buildPair cfg.ctrlTable) r

/-- The build succeeds: the configuration is a legal one (R98). -/
def buildSucceeds (cfg : Config) : Bool := (build cfg).isSome

/-! ### The derived direct decoder -/

/-- The inverse of the chain of stage 1 (R105): `D[k] = op(base[k], base[k-1])`. -/
def unchain (op : Bool → Bool → Bool) (previous : Bool) : List Bool → List Bool
  | [] => []
  | b :: rest => op b previous :: unchain op b rest

/-- `D[0] = base[0]`, then the inverse of the chain (R105). -/
def unbaseBits (op : Bool → Bool → Bool) : List Bool → List Bool
  | [] => []
  | b :: rest => b :: unchain op b rest

/-- The base word a codeword holds (R105): its payload, complemented if `I` is 1. -/
def baseOf (c : Codeword) : Byte := if bitI c then invert (payloadOf c) else payloadOf c

/-- The byte that stage 1 maps to the codeword's base word under the operator its `X` names (R105). -/
def unstage1 (c : Codeword) : Byte :=
  if bitX c then ofBits 8 (unbaseBits xorBit (bitsOf (baseOf c)))
  else ofBits 8 (unbaseBits xnorBit (bitsOf (baseOf c)))

/-- The polarity test of the direct decoder (R105): whether a balanced base word never has this `X` and `I`. -/
def wrongPolarity (pol : BalPolarity) (c : Codeword) : Bool :=
  match pol with
  | .followX => bitI c == bitX c
  | .alwaysDirect => bitI c

/-- `decode10(c)` (R105), derived: no operation calls it; it is stated to equal `dataReverse`. -/
def decode10 (pol : BalPolarity) (c : Codeword) : Option Byte :=
  if bitX c = useXnor (unstage1 c) then none
  else if bias (baseOf c) = 0 ∧ wrongPolarity pol c then none
  else some (unstage1 c)

end Sys2Proof.Machine
end

