-- ==== Sys2Proof/Syntax.lean ====
section
/-! DEFINITION. The syntax: one constructor of `Instr` for each of the 23 rows of the opcode table (spec R42, R43, R46),
and what the host can present to the core. -/

namespace Sys2Proof

/-- One row of the opcode table each. The sixteen request forms carry the three fields of the request word that `op`
does not fix, in the order the word has them: `aux`, `b`, `a` (R45); no field is dropped, since an unused field that is
not 0 faults (R49) and a fault records the whole word (R128). The seven codeword formats (R43) carry the bits that the
format does not fix. -/
inductive Instr where
  /-- `ENC`, op 0x1 (R83). -/
  | enc (aux : Nibble) (b a : Field)
  /-- `CTL`, op 0x2 (R91). -/
  | ctl (aux : Nibble) (b a : Field)
  /-- `CLS`, op 0x3 (R101). -/
  | cls (aux : Nibble) (b a : Field)
  /-- `HAM`, op 0x4 (R72). -/
  | ham (aux : Nibble) (b a : Field)
  /-- `NVS`, op 0x5 (R114). -/
  | nvs (aux : Nibble) (b a : Field)
  /-- `FCL`, op 0x6 (R117). -/
  | fcl (aux : Nibble) (b a : Field)
  /-- `ROB`, op 0x7 (R119). -/
  | rob (aux : Nibble) (b a : Field)
  /-- `CNT`, op 0x8 (R104). -/
  | cnt (aux : Nibble) (b a : Field)
  /-- `RESERVED_0`, op 0x0 (R48). -/
  | reserved0 (aux : Nibble) (b a : Field)
  /-- `RESERVED_9`, op 0x9 (R48). -/
  | reserved9 (aux : Nibble) (b a : Field)
  /-- `RESERVED_A`, op 0xA (R48). -/
  | reservedA (aux : Nibble) (b a : Field)
  /-- `RESERVED_B`, op 0xB (R48). -/
  | reservedB (aux : Nibble) (b a : Field)
  /-- `RESERVED_C`, op 0xC (R48). -/
  | reservedC (aux : Nibble) (b a : Field)
  /-- `RESERVED_D`, op 0xD (R48). -/
  | reservedD (aux : Nibble) (b a : Field)
  /-- `RESERVED_E`, op 0xE (R48). -/
  | reservedE (aux : Nibble) (b a : Field)
  /-- `RESERVED_F`, op 0xF (R48). -/
  | reservedF (aux : Nibble) (b a : Field)
  /-- `DATA_DIRECT`: `I = 0`, bit 8 is `x`, bits 7:0 are the base word (R43, R79). -/
  | dataDirect (x : Bool) (payload : Byte)
  /-- `DATA_INVERTED`: `I = 1`, bit 8 is `x`, bits 7:0 are the inverted base word (R43, R79). -/
  | dataInverted (x : Bool) (payload : Byte)
  /-- `CTRL_00`: `CTRL_TABLE(0, 0)` (R43). -/
  | ctrl00
  /-- `CTRL_10`: `CTRL_TABLE(1, 0)`, that is `c0 = 1`, `c1 = 0` (R43). -/
  | ctrl10
  /-- `CTRL_01`: `CTRL_TABLE(0, 1)`, that is `c0 = 0`, `c1 = 1` (R43). -/
  | ctrl01
  /-- `CTRL_11`: `CTRL_TABLE(1, 1)` (R43). -/
  | ctrl11
  /-- `FORBIDDEN`: every other 10-bit value (R43, R109). -/
  | forbidden (v : Codeword)
deriving DecidableEq, Repr

/-- What the host does to the core (R142): present a request word, or assert reset between two steps (R143). A bare
codeword stands for the request `DEC` of it (R58); DESIGN CHOICE, log 7, safe. -/
inductive HostInput where
  | request (word : RequestWord)
  | codeword (c : Codeword)
  | reset
deriving DecidableEq, Repr

end Sys2Proof
end

