-- ==== Sys2Proof/WellFormed.lean ====
section
/-! DEFINITION. Two checks on instructions. `wellFormed`: the term is what its own encoding decodes to (every request form
is; a codeword format is only if the registry puts its codeword in that format, R43). `operandsLegal`: the operands are in
the ranges of R47, so that the request breaks no input contract (R125). Log 13. -/

namespace Sys2Proof

open Machine in
/-- Membership of a term in its own format under a configuration (R43, R100). -/
def wellFormed (cfg : Config) : Instr → Bool
  | .enc _ _ _ => true
  | .ctl _ _ _ => true
  | .cls _ _ _ => true
  | .ham _ _ _ => true
  | .nvs _ _ _ => true
  | .fcl _ _ _ => true
  | .rob _ _ _ => true
  | .cnt _ _ _ => true
  | .reserved0 _ _ _ => true
  | .reserved9 _ _ _ => true
  | .reservedA _ _ _ => true
  | .reservedB _ _ _ => true
  | .reservedC _ _ _ => true
  | .reservedD _ _ _ => true
  | .reservedE _ _ _ => true
  | .reservedF _ _ _ => true
  | .dataDirect x payload => (romDataRev cfg (joinCodeword payload x false)).isSome
  | .dataInverted x payload => (romDataRev cfg (joinCodeword payload x true)).isSome
  | .ctrl00 => classify cfg (ctrlForward cfg.ctrlTable false false) == .control false false
  | .ctrl10 => classify cfg (ctrlForward cfg.ctrlTable true false) == .control true false
  | .ctrl01 => classify cfg (ctrlForward cfg.ctrlTable false true) == .control false true
  | .ctrl11 => classify cfg (ctrlForward cfg.ctrlTable true true) == .control true true
  | .forbidden v => classify cfg v == .forbidden

/-- The legal operands of R47, row by row. A reserved operation code has none (R48); a bare codeword is a 10-bit value and
breaks no contract. -/
def operandsLegal : Instr → Bool
  | .enc aux b a => decide (a.toNat ≤ 255) && decide (b = 0) && decide (aux = 0)
  | .ctl aux b a => decide (a.toNat ≤ 3) && decide (b = 0) && decide (aux = 0)
  | .cls aux b a => decide (a.toNat ≤ 1023) && decide (b = 0) && decide (aux = 0)
  | .ham aux b a => decide (a.toNat ≤ 1023) && decide (b.toNat ≤ 1023) && decide (aux = 0)
  | .nvs aux b a => decide (a.toNat ≤ 1023) && decide (b = 0) && decide (1 ≤ aux.toNat) && decide (aux.toNat ≤ 3)
  | .fcl aux b a => decide (a.toNat ≤ 1023) && decide (b = 0) && decide (aux = 0)
  | .rob aux b a => decide (a.toNat ≤ 3) && decide (b = 0) && decide (aux.toNat ≤ 9)
  | .cnt aux b a => decide (a = 0) && decide (b = 0) && decide (aux = 0)
  | .reserved0 _ _ _ => false
  | .reserved9 _ _ _ => false
  | .reservedA _ _ _ => false
  | .reservedB _ _ _ => false
  | .reservedC _ _ _ => false
  | .reservedD _ _ _ => false
  | .reservedE _ _ _ => false
  | .reservedF _ _ _ => false
  | .dataDirect _ _ => true
  | .dataInverted _ _ => true
  | .ctrl00 => true
  | .ctrl10 => true
  | .ctrl01 => true
  | .ctrl11 => true
  | .forbidden _ => true

end Sys2Proof
end

