-- ==== Sys2Proof/Decode.lean ====
section
/-! DEFINITION. Decoding of request words (spec R45, R46, R48, R56) and of bare codewords (R43), and the encoder written
from the same tables (R45, R47, R57). Decoding of a request reads `op` from bits 31:28 and needs nothing else (R56); every
32-bit word and every 10-bit codeword decodes. -/

namespace Sys2Proof

/-! ### Request words -/

/-- A request word from its fields (R45, R57): `op` bits 31:28, `aux` 27:24, `b` 23:12, `a` 11:0. -/
def requestWord (op aux : Nibble) (b a : Field) : RequestWord :=
  BitVec.ofNat 32 (op.toNat * 0x10000000 + aux.toNat * 0x1000000 + b.toNat * 0x1000 + a.toNat)

/-- `REQ[31:28]` (R45). -/
def opField (w : RequestWord) : Nibble := BitVec.ofNat 4 (w.toNat / 0x10000000)

/-- `REQ[27:24]` (R45). -/
def auxField (w : RequestWord) : Nibble := BitVec.ofNat 4 (w.toNat / 0x1000000)

/-- `REQ[23:12]` (R45). -/
def bField (w : RequestWord) : Field := BitVec.ofNat 12 (w.toNat / 0x1000)

/-- `REQ[11:0]` (R45). -/
def aField (w : RequestWord) : Field := BitVec.ofNat 12 w.toNat

/-- The operation map (R46, R48). `op` is below 16, so the last row is 0xF and nothing else. -/
def decodeFields (op : Nat) (aux : Nibble) (b a : Field) : Instr :=
  match op with
  | 0 => .reserved0 aux b a
  | 1 => .enc aux b a
  | 2 => .ctl aux b a
  | 3 => .cls aux b a
  | 4 => .ham aux b a
  | 5 => .nvs aux b a
  | 6 => .fcl aux b a
  | 7 => .rob aux b a
  | 8 => .cnt aux b a
  | 9 => .reserved9 aux b a
  | 10 => .reservedA aux b a
  | 11 => .reservedB aux b a
  | 12 => .reservedC aux b a
  | 13 => .reservedD aux b a
  | 14 => .reservedE aux b a
  | _ => .reservedF aux b a

/-- The request that a word is (R46, R56). -/
def decodeRequest (w : RequestWord) : Instr :=
  decodeFields (opField w).toNat (auxField w) (bField w) (aField w)

/-! ### Codewords -/

open Machine in
/-- The one format of the seven that a codeword has (R43): membership is decided by the registry (R100); a data codeword
is direct or inverted by its bit 9. -/
def decodeCodeword (cfg : Config) (c : Codeword) : Instr :=
  match classify cfg c with
  | .data _ => if bitI c then .dataInverted (bitX c) (payloadOf c) else .dataDirect (bitX c) (payloadOf c)
  | .control false false => .ctrl00
  | .control true false => .ctrl10
  | .control false true => .ctrl01
  | .control true true => .ctrl11
  | .forbidden => .forbidden c

/-- What the host presents, decoded; reset is no instruction (R58, R143). -/
def decodeInput (cfg : Config) : HostInput → Option Instr
  | .request w => some (decodeRequest w)
  | .codeword c => some (decodeCodeword cfg c)
  | .reset => none

/-! ### Words given as numbers -/

/-- Why a number of a given width is no word of this core. All of them are safe: they refuse (log 8). -/
inductive DecodeError where
  /-- The number does not fit the 10 bits of a codeword (R16, R17). -/
  | codewordTooWide
  /-- The number does not fit the 32 bits of a request word (R45). -/
  | requestTooWide
  /-- The core has no word of this width (R56). -/
  | noSuchWidth
deriving DecidableEq, Repr

/-- The host input that `nbits` bits of value `w` stand for: up to 16 bits hold a 10-bit codeword in whole bytes, up to
32 bits hold a request word (log 8). No number is truncated (R132). -/
def inputOfBits (nbits w : Nat) : Except DecodeError HostInput :=
  if nbits ≤ 16 then
    if w < 1024 then .ok (.codeword (BitVec.ofNat 10 w)) else .error .codewordTooWide
  else if nbits ≤ 32 then
    if w < 4294967296 then .ok (.request (BitVec.ofNat 32 w)) else .error .requestTooWide
  else .error .noSuchWidth

/-- Decoding of a number of a given width, total, rejecting by name. -/
def decodeBits (cfg : Config) (nbits w : Nat) : Except DecodeError Instr :=
  match inputOfBits nbits w with
  | .error e => .error e
  | .ok (.request word) => .ok (decodeRequest word)
  | .ok (.codeword c) => .ok (decodeCodeword cfg c)
  | .ok .reset => .error .noSuchWidth

/-- The instruction the decoder reads from a word of the opcode table, in the default configuration. -/
def decodeTableWord (nbits w : Nat) : Option Instr :=
  match decodeBits Config.default nbits w with
  | .ok i => some i
  | .error _ => none

/-! ### The encoder -/

open Machine in
/-- The words of an instruction (R45, R46, R43). -/
def encode (cfg : Config) : Instr → HostInput
  | .enc aux b a => .request (requestWord 0x1 aux b a)
  | .ctl aux b a => .request (requestWord 0x2 aux b a)
  | .cls aux b a => .request (requestWord 0x3 aux b a)
  | .ham aux b a => .request (requestWord 0x4 aux b a)
  | .nvs aux b a => .request (requestWord 0x5 aux b a)
  | .fcl aux b a => .request (requestWord 0x6 aux b a)
  | .rob aux b a => .request (requestWord 0x7 aux b a)
  | .cnt aux b a => .request (requestWord 0x8 aux b a)
  | .reserved0 aux b a => .request (requestWord 0x0 aux b a)
  | .reserved9 aux b a => .request (requestWord 0x9 aux b a)
  | .reservedA aux b a => .request (requestWord 0xA aux b a)
  | .reservedB aux b a => .request (requestWord 0xB aux b a)
  | .reservedC aux b a => .request (requestWord 0xC aux b a)
  | .reservedD aux b a => .request (requestWord 0xD aux b a)
  | .reservedE aux b a => .request (requestWord 0xE aux b a)
  | .reservedF aux b a => .request (requestWord 0xF aux b a)
  | .dataDirect x payload => .codeword (joinCodeword payload x false)
  | .dataInverted x payload => .codeword (joinCodeword payload x true)
  | .ctrl00 => .codeword (ctrlForward cfg.ctrlTable false false)
  | .ctrl10 => .codeword (ctrlForward cfg.ctrlTable true false)
  | .ctrl01 => .codeword (ctrlForward cfg.ctrlTable false true)
  | .ctrl11 => .codeword (ctrlForward cfg.ctrlTable true true)
  | .forbidden v => .codeword v

end Sys2Proof
end

