-- ==== Sys2Proof/Machine/Analysis.lean ====
section
/-! DEFINITION. The analysis engine (spec R110 to R118): nearest valid codewords, classes of forbidden codewords, and the
rotated control codewords. -/

namespace Sys2Proof.Machine

/-- `min { hamming(c, s) : s ∈ S }` (R110); none for the empty set. -/
def minDistance (c : Codeword) (s : CodewordSet) : Option Nat := ((members s).map (hamming c)).min?

/-- The elements of `S` at distance `d` from `c` (R110). -/
def atDistance (c : Codeword) (s : CodewordSet) (d : Nat) : CodewordSet :=
  setOf ((members s).filter fun t => hamming c t == d)

/-- `nearestValid(c, S)` (R110, R111): the minimum distance and every element that achieves it; the spec gives the empty
set no value (R112). -/
def nearestValid (c : Codeword) (s : CodewordSet) : Option (Nat × CodewordSet) :=
  match minDistance c s with
  | none => none
  | some d => some (d, atDistance c s d)

/-- The set that an `NVS` selector names (R113, R114): `aux[0]` includes DATA, `aux[1]` includes CTRL. -/
def selectedSet (cfg : Config) (aux : Nibble) : CodewordSet :=
  (if aux.getLsbD 0 then dataSet cfg.balPolarity else 0) ||| (if aux.getLsbD 1 then ctrlSet cfg.ctrlTable else 0)

/-- The classes of R115 and R117. -/
inductive ForbiddenClass where
  | notForbidden
  | unique
  | ambiguous
  | genuine
deriving DecidableEq, Repr

/-- The class of a codeword from its classification and from `(d, |N|)` against VALID (R115, R117). -/
def forbiddenClass (sym : Symbol) (d size : Nat) : ForbiddenClass :=
  if sym ≠ .forbidden then .notForbidden
  else if d = 1 ∧ size = 1 then .unique
  else if d = 1 then .ambiguous
  else .genuine

/-- `rotl^k` of a control codeword (R118, R119). -/
def rotatedControl (cfg : Config) (p : PackedPair) (k : Nat) : Codeword := rotl k (romCtrlFwd cfg p)

end Sys2Proof.Machine
end

