-- ==== Sys2Proof/Machine/Flags.lean ====
section
/-! DEFINITION. The fault causes (spec R126), the two fields of the fault status register (R24), and its reset value
(R144). `F` is the core's only flag. -/

namespace Sys2Proof.Machine

/-- The causes a fault can have (R126). Cause 0 is `NONE` and cause 7 is never written, so neither is here. -/
inductive Cause where
  /-- 1: the registry build failed (R94, R98). -/
  | buildCollision
  /-- 2: the operation code is reserved (R48). -/
  | illegalOp
  /-- 3: the byte operand of `ENC` is above 255. -/
  | byteRange
  /-- 4: a codeword operand is above 1023. -/
  | cwWidth
  /-- 5: a pair operand is above 3. -/
  | ctrlPair
  /-- 6: an unused field is not 0, or a selector or a rotation count is out of range. -/
  | badAux
deriving DecidableEq, Repr

/-- The cause code written to `FSR.CAUSE` (R126). -/
def causeCode : Cause → BitVec 3
  | .buildCollision => 1
  | .illegalOp => 2
  | .byteRange => 3
  | .cwWidth => 4
  | .ctrlPair => 5
  | .badAux => 6

/-- `FSR.F`, bit 0 (R24). -/
def fsrF (fsr : BitVec 4) : Bool := fsr.getLsbD 0

/-- `FSR.CAUSE`, bits 3:1 (R24). -/
def fsrCause (fsr : BitVec 4) : BitVec 3 := fsr.extractLsb' 1 3

/-- `FSR` with `F = 1` and the cause (R24, R128). -/
def faultedFsr (c : Cause) : BitVec 4 := causeCode c ++ 1#1

/-- `FSR` right after reset (R144): 0 if the registry build succeeds, faulted with `BUILD_COLLISION` if it fails. -/
def resetFsr (cfg : Config) : BitVec 4 := if buildSucceeds cfg then 0 else faultedFsr .buildCollision

end Sys2Proof.Machine
end

