-- ==== Sys2Proof/Machine/Operands.lean ====
section
/-! DEFINITION. The operand forms (spec R47, R54, R127, R130): each turns a field of the request word into a value or names
the cause of the fault; nothing is clamped, masked or truncated (R132). A meaning binds them in the order of R130: `a`,
then `b`, then `aux`. -/

namespace Sys2Proof.Machine

/-- A field as a bit vector of width `n` (R60), or the cause that says it does not fit. -/
def fitted (n : Nat) (cause : Cause) (f : Field) : Except Cause (BitVec n) :=
  match fromInteger (f.toNat : Int) n with
  | some v => .ok v
  | none => .error cause

/-- The byte operand of `ENC` (R83): 0 to 255, otherwise `BYTE_RANGE`. -/
def byteOperand (a : Field) : Except Cause Byte := fitted 8 .byteRange a

/-- A codeword operand (R72, R101, R114, R117): 0 to 1023, otherwise `CW_WIDTH`. -/
def codewordOperand (f : Field) : Except Cause Codeword := fitted 10 .cwWidth f

/-- The pair operand of `CTL` and `ROB` (R91, R119): 0 to 3, otherwise `CTRL_PAIR`. -/
def pairOperand (a : Field) : Except Cause PackedPair := fitted 2 .ctrlPair a

/-- An unused operand field must be 0 (R49), otherwise `BAD_AUX`. -/
def unusedField (f : Field) : Except Cause Unit := if f = 0 then .ok () else .error .badAux

/-- An unused `aux` must be 0 (R49), otherwise `BAD_AUX`. -/
def unusedAux (aux : Nibble) : Except Cause Unit := if aux = 0 then .ok () else .error .badAux

/-- The set selector of `NVS` (R114): 1, 2 or 3, otherwise `BAD_AUX`. -/
def selectorOperand (aux : Nibble) : Except Cause Nibble :=
  if aux = 0 ∨ aux.toNat > 3 then .error .badAux else .ok aux

/-- The rotation count of `ROB` (R119): 0 to 9, otherwise `BAD_AUX`. -/
def rotationOperand (aux : Nibble) : Except Cause Nat :=
  if aux.toNat > 9 then .error .badAux else .ok aux.toNat

end Sys2Proof.Machine
end

