-- ==== Sys2Proof/Machine/State.lean ====
section
/-! DEFINITION. The state of the core and the response record (spec R13, R24, R25, R27, R50, R144). -/

namespace Sys2Proof.Machine

/-- The response record of a step (R50); a field an operation does not produce is 0. -/
structure Response where
  /-- 0 is `OK`, 1 is `FAULT`. -/
  status : BitVec 1
  /-- The value of `FSR` after the step. -/
  fsr : BitVec 4
  /-- The value of `FREQ` after the step. -/
  freq : BitVec 32
  n : BitVec 11
  n2 : BitVec 11
  n3 : BitVec 11
  cw0 : Codeword
  cw1 : Codeword
  /-- The symbol tag (R51). -/
  tag : BitVec 2
  /-- The symbol payload (R51). -/
  payload : Byte
  dist : BitVec 4
  /-- The forbidden class (R53). -/
  fclass : BitVec 2
  /-- A set of codewords as its membership mask (R52). -/
  set : CodewordSet
deriving DecidableEq, Repr

/-- The response with 0 in every field (R50). -/
def Response.blank : Response :=
  { status := 0, fsr := 0, freq := 0, n := 0, n2 := 0, n3 := 0, cw0 := 0, cw1 := 0, tag := 0, payload := 0, dist := 0,
    fclass := 0, set := 0 }

/-- Why a step of the machine stops with a fault: it has no constructor, because no step does. The faults of the spec are
latched in `FSR` and `FREQ` and the step ends in a next state (R128, R129). DEDUCED, safe: nothing is lost (log 19). -/
inductive Fault : Type
deriving DecidableEq, Repr

/-- Why a step of the machine is refused. -/
inductive Refusal where
  /-- Raised by an arm of `exec` for an instruction without a meaning: no arm does. Safe. -/
  | notModelled (mnemonic : String)
deriving DecidableEq, Repr

/-- The state. The spec's own is `(fsr, freq)` (R13); the other three fields are the model's (log 1, 4, 6). -/
structure State where
  /-- `CTRL_TABLE` and `BAL_POLARITY` (R7, R8): a parameter carried along, written by no step (R13; log 1). -/
  config : Config
  /-- `FSR`, the fault status register (R24). -/
  fsr : BitVec 4
  /-- `FREQ`, the faulting request register (R25). -/
  freq : BitVec 32
  /-- What the host goes on to present, in order (R142; log 4). -/
  pending : List HostInput
  /-- The responses returned to the host, the newest first (R50; log 6); no step reads it (R23). -/
  responses : List Response
deriving DecidableEq, Repr

/-- The core of a configuration right after reset (R144, R146), nothing presented and nothing answered yet. -/
def State.resetWith (cfg : Config) : State :=
  { config := cfg, fsr := resetFsr cfg, freq := 0, pending := [], responses := [] }

/-- The machine right after reset, in the default configuration: `FSR = 0`, `FREQ = 0` (R27; log 11). -/
def State.reset : State :=
  { config := Config.default, fsr := 0, freq := 0, pending := [], responses := [] }

end Sys2Proof.Machine
end

