-- ==== Sys2Proof/Machine/Ops.lean ====
section
/-! DEFINITION. The shared operations over the state: returning a response (spec R50), TAKING A FAULT (R55, R128), the
absorbing faulted state (R129), the way back from it, which is reset (R133, R143, R144), and the encodings of results on
the port (R51 to R53). -/

namespace Sys2Proof.Machine

/-! ### Responses -/

/-- Return one response to the host (R50). -/
def emit (r : Response) (s : State) : State := { s with responses := r :: s.responses }

/-- The response of a step that does not fault (R50): `OK`, with `FSR` and `FREQ` as they stand. -/
def okResponse (body : Response) (s : State) : Response := { body with status := 0, fsr := s.fsr, freq := s.freq }

/-- The fault response (R55): `FAULT`, `FSR` and `FREQ` as they stand, 0 in every other field. -/
def faultResponse (s : State) : Response := { Response.blank with status := 1, fsr := s.fsr, freq := s.freq }

/-- End a step that does not fault: nothing is written but the response. -/
def answerOk (body : Response) (s : State) : State := emit (okResponse body s) s

/-! ### Faults and reset -/

/-- `FSR.F` of a state (R24). -/
def faulted (s : State) : Bool := fsrF s.fsr

/-- A step taken while `FSR.F == 1` (R129): `FSR` and `FREQ` stay, the response is the fault response. -/
def answerFaulted (s : State) : State := emit (faultResponse s) s

/-- `raise Fault(CAUSE)` with the request word (R128): the three writes, then the fault response. -/
def raiseFault (cause : Cause) (req : RequestWord) (s : State) : State :=
  answerFaulted { s with fsr := faultedFsr cause, freq := req }

/-- Reset (R143, R144): `FSR` and `FREQ` take their reset values; it returns no response and leaves the
host's lists alone (DESIGN CHOICE, log 16). -/
def applyReset (s : State) : State := { s with fsr := resetFsr s.config, freq := 0 }

/-- One step of the core with a request word (R10, R129, R130): while `F` is 1 the fault response; otherwise the first
failed check is taken as a fault, or the result is returned. -/
def serve (req : RequestWord) (result : Except Cause Response) (s : State) : Host.Outcome State Fault Refusal :=
  if faulted s then .next (answerFaulted s)
  else
    match result with
    | .error cause => .next (raiseFault cause req s)
    | .ok body => .next (answerOk body s)

/-! ### Results on the port -/

/-- The symbol tag (R51): 0 `Forbidden`, 1 `Data`, 2 `Control`; 3 is never produced. -/
def symbolTag : Symbol → BitVec 2
  | .forbidden => 0
  | .data _ => 1
  | .control _ _ => 2

/-- The symbol payload (R51, R54): the byte; the packed pair in bits 1:0; or 0. -/
def symbolPayload : Symbol → Byte
  | .forbidden => 0
  | .data byte => byte
  | .control c0 c1 => BitVec.ofNat 8 (packPair c0 c1).toNat

/-- The fields of a classification (R101). -/
def symbolBody (sym : Symbol) : Response :=
  { Response.blank with tag := symbolTag sym, payload := symbolPayload sym }

/-- The forbidden-class code (R53). -/
def classCode : ForbiddenClass → BitVec 2
  | .notForbidden => 0
  | .unique => 1
  | .ambiguous => 2
  | .genuine => 3

/-- The size of a set on the port (R50: `n` is 0 to 1024, so 11 bits lose nothing; log 18). -/
def sizeField (s : CodewordSet) : BitVec 11 := BitVec.ofNat 11 (card s)

/-- The fields of a nearest-codeword search (R114): `dist` is 0 to 10, so 4 bits lose nothing. -/
def nearestBody (d : Nat) (near : CodewordSet) : Response :=
  { Response.blank with dist := BitVec.ofNat 4 d, set := near, n := sizeField near }

/-- The nearest-codeword search of an operation. The spec gives the empty set no value and the port refuses it with
`BAD_AUX` (R112); the set is never empty here (log 10), safe. -/
def searchNearest (c : Codeword) (s : CodewordSet) : Except Cause (Nat × CodewordSet) :=
  match nearestValid c s with
  | some r => .ok r
  | none => .error .badAux

end Sys2Proof.Machine
end

