-- ==== Sys2Proof/Machine/AnalysisFamily.lean ====
section
/-! DEFINITION. The operations of the bit-vector primitives and of the analysis engine: `HAM` (spec R72), `NVS` (R114),
`FCL` (R117) and `ROB` (R119). -/

namespace Sys2Proof.Machine

/-- The result of `HAM` (R72). -/
def hamResult (aux : Nibble) (b a : Field) : Except Cause Response := do
  let x ← codewordOperand a
  let y ← codewordOperand b
  unusedAux aux
  return { Response.blank with dist := BitVec.ofNat 4 (hamming x y) }

/-- `HAM` (R72): it reads no table. -/
def execHam (aux : Nibble) (b a : Field) (s : State) : Host.Outcome State Fault Refusal :=
  serve (requestWord 0x4 aux b a) (hamResult aux b a) s

/-- The result of `NVS` (R114). -/
def nvsResult (cfg : Config) (aux : Nibble) (b a : Field) : Except Cause Response := do
  let c ← codewordOperand a
  unusedField b
  let sel ← selectorOperand aux
  let r ← searchNearest c (selectedSet cfg sel)
  return nearestBody r.1 r.2

/-- `NVS` (R114). -/
def execNvs (aux : Nibble) (b a : Field) (s : State) : Host.Outcome State Fault Refusal :=
  serve (requestWord 0x5 aux b a) (nvsResult s.config aux b a) s

/-- The result of `FCL` (R115, R117). -/
def fclResult (cfg : Config) (aux : Nibble) (b a : Field) : Except Cause Response := do
  let c ← codewordOperand a
  unusedField b
  unusedAux aux
  let r ← searchNearest c (validSet cfg)
  return { nearestBody r.1 r.2 with fclass := classCode (forbiddenClass (classify cfg c) r.1 (card r.2)) }

/-- `FCL` (R117). -/
def execFcl (aux : Nibble) (b a : Field) (s : State) : Host.Outcome State Fault Refusal :=
  serve (requestWord 0x6 aux b a) (fclResult s.config aux b a) s

/-- The result of `ROB` (R118, R119): the search is against DATA. -/
def robResult (cfg : Config) (aux : Nibble) (b a : Field) : Except Cause Response := do
  let p ← pairOperand a
  unusedField b
  let k ← rotationOperand aux
  let r ← searchNearest (rotatedControl cfg p k) (dataSet cfg.balPolarity)
  return { nearestBody r.1 r.2 with cw0 := rotatedControl cfg p k }

/-- `ROB` (R119). -/
def execRob (aux : Nibble) (b a : Field) (s : State) : Host.Outcome State Fault Refusal :=
  serve (requestWord 0x7 aux b a) (robResult s.config aux b a) s

end Sys2Proof.Machine
end

