-- ==== Sys2Proof/Machine/CodewordFamily.lean ====
section
/-! DEFINITION. The seven codeword formats (spec R43) presented as bare codewords. The spec gives a codeword no request of
its own: it is the operand of `CLS`, whose pseudo-operation is `DEC` (R58). DESIGN CHOICE (log 7), safe: presenting a bare
codeword answers exactly what the request `CLS` of it answers. -/

namespace Sys2Proof.Machine

/-- The request word of `CLS c` (R57, R58). -/
def decRequest (c : Codeword) : RequestWord := requestWord 0x3 0 0 (BitVec.ofNat 12 c.toNat)

/-- `DEC c` (R58): the classification of a codeword, as `CLS` answers it (R101). A 10-bit value breaks no contract. -/
def decodeBare (c : Codeword) (s : State) : Host.Outcome State Fault Refusal :=
  serve (decRequest c) (.ok (symbolBody (classify s.config c))) s

/-- `DATA_DIRECT` (R43, R79). -/
def execDataDirect (x : Bool) (payload : Byte) (s : State) : Host.Outcome State Fault Refusal :=
  decodeBare (joinCodeword payload x false) s

/-- `DATA_INVERTED` (R43, R79). -/
def execDataInverted (x : Bool) (payload : Byte) (s : State) : Host.Outcome State Fault Refusal :=
  decodeBare (joinCodeword payload x true) s

/-- `CTRL_00` (R43, R89). -/
def execCtrl00 (s : State) : Host.Outcome State Fault Refusal :=
  decodeBare (ctrlForward s.config.ctrlTable false false) s

/-- `CTRL_10` (R43, R89). -/
def execCtrl10 (s : State) : Host.Outcome State Fault Refusal :=
  decodeBare (ctrlForward s.config.ctrlTable true false) s

/-- `CTRL_01` (R43, R89). -/
def execCtrl01 (s : State) : Host.Outcome State Fault Refusal :=
  decodeBare (ctrlForward s.config.ctrlTable false true) s

/-- `CTRL_11` (R43, R89). -/
def execCtrl11 (s : State) : Host.Outcome State Fault Refusal :=
  decodeBare (ctrlForward s.config.ctrlTable true true) s

/-- `FORBIDDEN` (R43, R109). -/
def execForbidden (v : Codeword) (s : State) : Host.Outcome State Fault Refusal := decodeBare v s

end Sys2Proof.Machine
end

