-- ==== Sys2Proof/Machine/ControlFamily.lean ====
section
/-! DEFINITION. The control table's operation: `CTL` (spec R91). -/

namespace Sys2Proof.Machine

/-- The result of `CTL` (R91). -/
def ctlResult (cfg : Config) (aux : Nibble) (b a : Field) : Except Cause Response := do
  let p ← pairOperand a
  unusedField b
  unusedAux aux
  return { Response.blank with cw0 := romCtrlFwd cfg p }

/-- `CTL` (R91). -/
def execCtl (aux : Nibble) (b a : Field) (s : State) : Host.Outcome State Fault Refusal :=
  serve (requestWord 0x2 aux b a) (ctlResult s.config aux b a) s

end Sys2Proof.Machine
end

