-- ==== Sys2Proof/Machine/EncodeFamily.lean ====
section
/-! DEFINITION. The encoder's operation: `ENC` (spec R83). -/

namespace Sys2Proof.Machine

/-- The fields of an `ENC` response (R83): `cw1` is 0 when there is one candidate. -/
def candidateBody (l : List Codeword) : Response :=
  { Response.blank with n := BitVec.ofNat 11 l.length, cw0 := l.getD 0 0, cw1 := l.getD 1 0 }

/-- The result of `ENC` (R83). -/
def encResult (cfg : Config) (aux : Nibble) (b a : Field) : Except Cause Response := do
  let d ← byteOperand a
  unusedField b
  unusedAux aux
  return candidateBody (romDataFwd cfg d)

/-- `ENC` (R83). -/
def execEnc (aux : Nibble) (b a : Field) (s : State) : Host.Outcome State Fault Refusal :=
  serve (requestWord 0x1 aux b a) (encResult s.config aux b a) s

end Sys2Proof.Machine
end

