-- ==== Sys2Proof/Machine/RegistryFamily.lean ====
section
/-! DEFINITION. The registry's operations: `CLS` (spec R101) and `CNT` (R104). -/

namespace Sys2Proof.Machine

/-- The result of `CLS` (R101). A forbidden codeword is an ordinary result, not a fault. -/
def clsResult (cfg : Config) (aux : Nibble) (b a : Field) : Except Cause Response := do
  let c ← codewordOperand a
  unusedField b
  unusedAux aux
  return symbolBody (classify cfg c)

/-- `CLS` (R101). -/
def execCls (aux : Nibble) (b a : Field) (s : State) : Host.Outcome State Fault Refusal :=
  serve (requestWord 0x3 aux b a) (clsResult s.config aux b a) s

/-- The result of `CNT` (R104): how many of the 1024 codewords are data, control and forbidden (R103). -/
def cntResult (cfg : Config) (aux : Nibble) (b a : Field) : Except Cause Response := do
  unusedField a
  unusedField b
  unusedAux aux
  return { Response.blank with
    n := sizeField (dataSet cfg.balPolarity), n2 := sizeField (controlSet cfg), n3 := sizeField (forbiddenSet cfg) }

/-- `CNT` (R104). -/
def execCnt (aux : Nibble) (b a : Field) (s : State) : Host.Outcome State Fault Refusal :=
  serve (requestWord 0x8 aux b a) (cntResult s.config aux b a) s

end Sys2Proof.Machine
end

