-- ==== Sys2Proof/Machine/ReservedFamily.lean ====
section
/-! DEFINITION. The reserved operation codes (spec R48): each takes the fault `ILLEGAL_OP`, whatever the other fields are
(R130 (2)); the whole request word is recorded (R128). -/

namespace Sys2Proof.Machine

/-- A request whose operation code selects no operation (R48, R127: always `ILLEGAL_OP`; no operand is examined). -/
def reservedResult : Except Cause Response := .error .illegalOp

/-- `RESERVED_0` (R48). -/
def execReserved0 (aux : Nibble) (b a : Field) (s : State) : Host.Outcome State Fault Refusal :=
  serve (requestWord 0x0 aux b a) reservedResult s

/-- `RESERVED_9` (R48). -/
def execReserved9 (aux : Nibble) (b a : Field) (s : State) : Host.Outcome State Fault Refusal :=
  serve (requestWord 0x9 aux b a) reservedResult s

/-- `RESERVED_A` (R48). -/
def execReservedA (aux : Nibble) (b a : Field) (s : State) : Host.Outcome State Fault Refusal :=
  serve (requestWord 0xA aux b a) reservedResult s

/-- `RESERVED_B` (R48). -/
def execReservedB (aux : Nibble) (b a : Field) (s : State) : Host.Outcome State Fault Refusal :=
  serve (requestWord 0xB aux b a) reservedResult s

/-- `RESERVED_C` (R48). -/
def execReservedC (aux : Nibble) (b a : Field) (s : State) : Host.Outcome State Fault Refusal :=
  serve (requestWord 0xC aux b a) reservedResult s

/-- `RESERVED_D` (R48). -/
def execReservedD (aux : Nibble) (b a : Field) (s : State) : Host.Outcome State Fault Refusal :=
  serve (requestWord 0xD aux b a) reservedResult s

/-- `RESERVED_E` (R48). -/
def execReservedE (aux : Nibble) (b a : Field) (s : State) : Host.Outcome State Fault Refusal :=
  serve (requestWord 0xE aux b a) reservedResult s

/-- `RESERVED_F` (R48). -/
def execReservedF (aux : Nibble) (b a : Field) (s : State) : Host.Outcome State Fault Refusal :=
  serve (requestWord 0xF aux b a) reservedResult s

end Sys2Proof.Machine
end

