-- ==== Sys2Proof/Machine/Dispatch.lean ====
section
/-! DEFINITION. The dispatch: one arm for each constructor of `Instr`, each a direct call of its meaning. -/

namespace Sys2Proof.Machine

-- the instruction and the state before it; the outcome of the step that runs it
def exec (i : Instr) (s : State) : Host.Outcome State Fault Refusal :=
  match i with
  | .enc aux b a => Sys2Proof.Machine.execEnc aux b a s
  | .ctl aux b a => Sys2Proof.Machine.execCtl aux b a s
  | .cls aux b a => Sys2Proof.Machine.execCls aux b a s
  | .ham aux b a => Sys2Proof.Machine.execHam aux b a s
  | .nvs aux b a => Sys2Proof.Machine.execNvs aux b a s
  | .fcl aux b a => Sys2Proof.Machine.execFcl aux b a s
  | .rob aux b a => Sys2Proof.Machine.execRob aux b a s
  | .cnt aux b a => Sys2Proof.Machine.execCnt aux b a s
  | .reserved0 aux b a => Sys2Proof.Machine.execReserved0 aux b a s
  | .reserved9 aux b a => Sys2Proof.Machine.execReserved9 aux b a s
  | .reservedA aux b a => Sys2Proof.Machine.execReservedA aux b a s
  | .reservedB aux b a => Sys2Proof.Machine.execReservedB aux b a s
  | .reservedC aux b a => Sys2Proof.Machine.execReservedC aux b a s
  | .reservedD aux b a => Sys2Proof.Machine.execReservedD aux b a s
  | .reservedE aux b a => Sys2Proof.Machine.execReservedE aux b a s
  | .reservedF aux b a => Sys2Proof.Machine.execReservedF aux b a s
  | .dataDirect x payload => Sys2Proof.Machine.execDataDirect x payload s
  | .dataInverted x payload => Sys2Proof.Machine.execDataInverted x payload s
  | .ctrl00 => Sys2Proof.Machine.execCtrl00 s
  | .ctrl10 => Sys2Proof.Machine.execCtrl10 s
  | .ctrl01 => Sys2Proof.Machine.execCtrl01 s
  | .ctrl11 => Sys2Proof.Machine.execCtrl11 s
  | .forbidden v => Sys2Proof.Machine.execForbidden v s

end Sys2Proof.Machine
end

