-- ==== Sys2Proof/Machine/Fetch.lean ====
section
/-! DEFINITION. Taking what the host presents (spec R10, R129, R142, R143). -/

namespace Sys2Proof.Machine

/-- The host goes on to present this first (log 4). -/
def presentInput (u : HostInput) (s : State) : State := { s with pending := u :: s.pending }

/-- One step with an instruction (R10, R129): while `F` is 1 it is not looked at and the fault response is returned
(log 17). -/
def serveInstr (i : Instr) (s : State) : Host.Outcome State Fault Refusal :=
  if faulted s then .next (answerFaulted s) else exec i s

/-- One host input, taken by the core: a request or a codeword is decoded and run, reset is applied (R144). -/
def serveInput (u : HostInput) (s : State) : Host.Outcome State Fault Refusal :=
  match u with
  | .request w => serveInstr (decodeRequest w) s
  | .codeword c => serveInstr (decodeCodeword s.config c) s
  | .reset => .next (applyReset s)

/-- The state with the instruction given as a number of a given width presented next; a number that is no word of the
core is not presented (log 8). -/
def presentBits (s : State) (nbits w : Nat) : State :=
  match inputOfBits nbits w with
  | .ok u => presentInput u s
  | .error _ => s

/-- A step of the core. With nothing presented the core holds its state and answers nothing. DESIGN CHOICE (log 5):
R24 and R25 let only a faulting step and reset write the state. -/
def takeStep (s : State) : Host.Outcome State Fault Refusal :=
  match s.pending with
  | [] => .next s
  | u :: rest => serveInput u { s with pending := rest }

end Sys2Proof.Machine
end

