-- ==== Sys2Proof/Machine/Step.lean ====
section
/-! DEFINITION. One step of the machine, and where it fetches its next instruction. -/

namespace Sys2Proof.Machine

/-- One step (spec R10, R142). -/
def step (s : State) : Host.Outcome State Fault Refusal := takeStep s

/-- The state in which the instruction whose bits are `w` is what the host presents next (log 4). -/
def State.withFetchWord (s : State) (nbits w : Nat) : State := presentBits s nbits w

end Sys2Proof.Machine
end

