-- ==== Sys2Proof/Safety.lean ====
section
/-! DEFINITION. What counts as a good state and a good response, in the terms the statements use: the table of checks
(spec R127, R130), the form of a response (R50, R51, R55) and the state invariant (R24, R25, R126, R146). -/

namespace Sys2Proof.Machine

/-- The first failed check of the list, in order (R130). -/
def firstFailed : List (Bool × Cause) → Option Cause
  | [] => none
  | (fails, cause) :: rest => if fails then some cause else firstFailed rest

/-- The cause an instruction reports in a state that is not faulted, none if it breaks no check: the table of R127 in the
order of R130 (`ILLEGAL_OP`, then `a`, then `b`, then `aux`), over the numbers in the fields. -/
def firstBrokenCheck : Instr → Option Cause
  | .enc aux b a => firstFailed [(a.toNat > 255, .byteRange), (b ≠ 0, .badAux), (aux ≠ 0, .badAux)]
  | .ctl aux b a => firstFailed [(a.toNat > 3, .ctrlPair), (b ≠ 0, .badAux), (aux ≠ 0, .badAux)]
  | .cls aux b a => firstFailed [(a.toNat > 1023, .cwWidth), (b ≠ 0, .badAux), (aux ≠ 0, .badAux)]
  | .ham aux b a => firstFailed [(a.toNat > 1023, .cwWidth), (b.toNat > 1023, .cwWidth), (aux ≠ 0, .badAux)]
  | .nvs aux b a =>
    firstFailed [(a.toNat > 1023, .cwWidth), (b ≠ 0, .badAux), (aux = 0, .badAux), (aux.toNat > 3, .badAux)]
  | .fcl aux b a => firstFailed [(a.toNat > 1023, .cwWidth), (b ≠ 0, .badAux), (aux ≠ 0, .badAux)]
  | .rob aux b a => firstFailed [(a.toNat > 3, .ctrlPair), (b ≠ 0, .badAux), (aux.toNat > 9, .badAux)]
  | .cnt aux b a => firstFailed [(a ≠ 0, .badAux), (b ≠ 0, .badAux), (aux ≠ 0, .badAux)]
  | .reserved0 _ _ _ => some .illegalOp
  | .reserved9 _ _ _ => some .illegalOp
  | .reservedA _ _ _ => some .illegalOp
  | .reservedB _ _ _ => some .illegalOp
  | .reservedC _ _ _ => some .illegalOp
  | .reservedD _ _ _ => some .illegalOp
  | .reservedE _ _ _ => some .illegalOp
  | .reservedF _ _ _ => some .illegalOp
  | .dataDirect _ _ => none
  | .dataInverted _ _ => none
  | .ctrl00 => none
  | .ctrl10 => none
  | .ctrl01 => none
  | .ctrl11 => none
  | .forbidden _ => none

/-- The request word an instruction is presented as (R45); a bare codeword is `DEC` of it (R58). -/
def requestOf (cfg : Config) (i : Instr) : RequestWord :=
  match encode cfg i with
  | .request w => w
  | .codeword c => decRequest c
  | .reset => 0

/-- The instruction runs, and everything it does is to return `body` as an `OK` response with `FSR` and `FREQ` as they
stand (R50): `FSR`, `FREQ`, the configuration and what the host goes on to present are unchanged. -/
def AnswersWith (i : Instr) (s : State) (body : Response) : Prop :=
  exec i s = .next { s with responses := { body with status := 0, fsr := s.fsr, freq := s.freq } :: s.responses }

/-- The instruction takes the fault (R128): `F <- 1`, `CAUSE <- cause`, `FREQ <- w`, the fault response of R55, and
nothing else. -/
def TakesFault (i : Instr) (s : State) (cause : Cause) (w : RequestWord) : Prop :=
  exec i s = .next { s with
    fsr := faultedFsr cause, freq := w,
    responses := { Response.blank with status := 1, fsr := faultedFsr cause, freq := w } :: s.responses }

/-- The instruction is not looked at (R129): `FSR` and `FREQ` stay and the response is the fault response of R55. -/
def NotServed (i : Instr) (s : State) : Prop :=
  exec i s = .next { s with
    responses := { Response.blank with status := 1, fsr := s.fsr, freq := s.freq } :: s.responses }

/-- The response a request gets from a core that has just been reset; none if the step returns none. -/
def freshAnswer (cfg : Config) (w : RequestWord) : Option Response :=
  match exec (decodeRequest w) (State.resetWith cfg) with
  | .next t => t.responses.head?
  | .fault _ => none
  | .refused _ => none

/-- The codeword is a data codeword: a candidate of some byte (R96). -/
def IsData (cfg : Config) (c : Codeword) : Prop := ∃ d : Byte, c ∈ encodeByte cfg.balPolarity d

/-- The codeword is a control codeword: that of some pair (R97). -/
def IsControl (cfg : Config) (c : Codeword) : Prop := ∃ c0 c1 : Bool, c = ctrlForward cfg.ctrlTable c0 c1

/-- The set `near` is exactly the elements of `source` at the distance `d` from `c`, there is one, and none is nearer
(R110, R111). -/
structure NearestIn (source : Codeword → Prop) (c : Codeword) (d : Nat) (near : CodewordSet) : Prop where
  achieved : ∃ t, source t ∧ hamming c t = d
  minimal : ∀ t, source t → d ≤ hamming c t
  exact : ∀ t, inSet t near = true ↔ source t ∧ hamming c t = d

/-- The contract of the control table (R88) under a polarity: pairwise distinct, at least 7 transitions each, none a data
codeword. -/
structure LegalTable (cfg : Config) : Prop where
  distinct : ∀ p ∈ allPairs, ∀ q ∈ allPairs,
    ctrlForward cfg.ctrlTable p.1 p.2 = ctrlForward cfg.ctrlTable q.1 q.2 → p = q
  dense : ∀ p ∈ allPairs, 7 ≤ transitions (ctrlForward cfg.ctrlTable p.1 p.2)
  apart : ∀ p ∈ allPairs, ¬ IsData cfg (ctrlForward cfg.ctrlTable p.1 p.2)

/-- The fields of a response that carry a result (all but `status`, `fsr` and `freq`) are 0 (R55). -/
def resultBlank (r : Response) : Prop := r = { Response.blank with status := r.status, fsr := r.fsr, freq := r.freq }

/-- A response as the port can show it: the ranges of R50, the tag of R51, the size of the set of R52, and R55 for a
fault. -/
structure ResponseForm (r : Response) : Prop where
  n_le : r.n.toNat ≤ 1024
  n2_le : r.n2.toNat ≤ 1024
  n3_le : r.n3.toNat ≤ 1024
  tag_ne : r.tag ≠ 3
  dist_le : r.dist.toNat ≤ 10
  status_f : r.status = 1 ↔ fsrF r.fsr = true
  fault_blank : r.status = 1 → resultBlank r

/-- The invariant of the state: `F = 0` if and only if `CAUSE = 0`, and `CAUSE` is never 7 (R24, R126); `FREQ` is 0 unless
a request faulted (R25); a configuration whose registry build fails is faulted with `BUILD_COLLISION` and no other is
(R144, R146); every response returned so far has the form of the port. -/
structure StateInvariant (s : State) : Prop where
  f_iff_cause : fsrF s.fsr = false ↔ fsrCause s.fsr = 0
  cause_ne : fsrCause s.fsr ≠ 7
  freq_zero : fsrF s.fsr = false → s.freq = 0
  freq_build : fsrCause s.fsr = 1 → s.freq = 0
  build_iff : fsrCause s.fsr = 1 ↔ buildSucceeds s.config = false
  answers : ∀ r ∈ s.responses, ResponseForm r

end Sys2Proof.Machine
end

