-- ==== Sys2Proof/Certificates/Slice0/Obligations.lean ====
section
/-! DEFINITION. The statements for the provers. "Unfaulted" is `fsrF s.fsr = false`; `AnswersWith`, `TakesFault` and
`NotServed` (Safety) give the WHOLE next state, so that each carries the frame: `config`, `pending`, and, but for a fault,
`FSR` and `FREQ` are unchanged. The core has no registers and no memory (spec R14, R28), so there is nothing else. -/

open Sys2Proof Sys2Proof.Machine

/-! ### Encoding -/

/-- Every well-formed instruction, in every configuration, decodes from its own encoding (R43, R45, R46). -/
def Obligations.DecodeEncodeAgree : Prop :=
  ∀ (cfg : Config) (i : Instr), wellFormed cfg i = true → decodeInput cfg (encode cfg i) = some i

/-- Every request word and every codeword is the encoding of the well-formed instruction it decodes to (R43, R46). -/
def Obligations.EncodeDecodeAgree : Prop :=
  ∀ (cfg : Config) (u : HostInput), u ≠ .reset →
    ∃ i, decodeInput cfg u = some i ∧ wellFormed cfg i = true ∧ encode cfg i = u

/-- R46: the operation map; `aux`, `b` and `a` take no part in selecting the operation. -/
def Obligations.OperationMap : Prop :=
  ∀ (aux : Nibble) (b a : Field),
    decodeRequest (requestWord 0x0 aux b a) = .reserved0 aux b a ∧
    decodeRequest (requestWord 0x1 aux b a) = .enc aux b a ∧
    decodeRequest (requestWord 0x2 aux b a) = .ctl aux b a ∧
    decodeRequest (requestWord 0x3 aux b a) = .cls aux b a ∧
    decodeRequest (requestWord 0x4 aux b a) = .ham aux b a ∧
    decodeRequest (requestWord 0x5 aux b a) = .nvs aux b a ∧
    decodeRequest (requestWord 0x6 aux b a) = .fcl aux b a ∧
    decodeRequest (requestWord 0x7 aux b a) = .rob aux b a ∧
    decodeRequest (requestWord 0x8 aux b a) = .cnt aux b a ∧
    decodeRequest (requestWord 0x9 aux b a) = .reserved9 aux b a ∧
    decodeRequest (requestWord 0xA aux b a) = .reservedA aux b a ∧
    decodeRequest (requestWord 0xB aux b a) = .reservedB aux b a ∧
    decodeRequest (requestWord 0xC aux b a) = .reservedC aux b a ∧
    decodeRequest (requestWord 0xD aux b a) = .reservedD aux b a ∧
    decodeRequest (requestWord 0xE aux b a) = .reservedE aux b a ∧
    decodeRequest (requestWord 0xF aux b a) = .reservedF aux b a

/-- R45: the bits of the four fields, and every 32-bit word is made of its four fields. -/
def Obligations.RequestWordLayout : Prop :=
  ∀ w : RequestWord,
    opField w = w.extractLsb' 28 4 ∧ auxField w = w.extractLsb' 24 4 ∧
    bField w = w.extractLsb' 12 12 ∧ aField w = w.extractLsb' 0 12 ∧
    requestWord (opField w) (auxField w) (bField w) (aField w) = w

/-- In a configuration whose registry builds, every 10-bit value has exactly the format R43 gives it: direct or inverted
data by the byte whose stage 1 gives it, one of the four control formats, or forbidden. -/
def Obligations.CodewordFormats : Prop :=
  ∀ (cfg : Config) (c : Codeword), buildSucceeds cfg = true →
    (∀ x p, decodeCodeword cfg c = .dataDirect x p ↔
      c = joinCodeword p x false ∧ ∃ d, baseWord d = p ∧ flagX d = x ∧ c ∈ encodeByte cfg.balPolarity d) ∧
    (∀ x p, decodeCodeword cfg c = .dataInverted x p ↔
      c = joinCodeword p x true ∧ ∃ d, invert (baseWord d) = p ∧ flagX d = x ∧ c ∈ encodeByte cfg.balPolarity d) ∧
    (decodeCodeword cfg c = .ctrl00 ↔ c = ctrlForward cfg.ctrlTable false false) ∧
    (decodeCodeword cfg c = .ctrl10 ↔ c = ctrlForward cfg.ctrlTable true false) ∧
    (decodeCodeword cfg c = .ctrl01 ↔ c = ctrlForward cfg.ctrlTable false true) ∧
    (decodeCodeword cfg c = .ctrl11 ↔ c = ctrlForward cfg.ctrlTable true true) ∧
    (∀ v, decodeCodeword cfg c = .forbidden v ↔ v = c ∧ ¬ IsData cfg c ∧ ¬ IsControl cfg c)

/-- A few words written out from the tables of R43, R45 and R57 decode to the instructions they stand for. The control
codeword rests on the default table (log 2, PRESUMED). -/
def Obligations.DecodesWrittenWords : Prop :=
  decodeTableWord 32 0x1F001010 = some (.enc 0xF 0x001 0x010) ∧
  decodeTableWord 32 0x40154354 = some (.ham 0 0x154 0x354) ∧
  decodeTableWord 32 0x72000000 = some (.rob 2 0 0) ∧
  decodeTableWord 32 0xFFFFFFFF = some (.reservedF 0xF 0xFFF 0xFFF) ∧
  decodeTableWord 16 0b0111110000 = some (.dataDirect true 0b11110000) ∧
  decodeTableWord 16 0b1011110000 = some (.dataInverted false 0b11110000) ∧
  decodeTableWord 16 0b0010101011 = some .ctrl10 ∧
  decodeTableWord 16 0b1010101001 = some (.forbidden 0x2A9)

/-! ### Steps, reset and the host's inputs -/

/-- Where the host's next input decodes to an instruction, a step runs exactly it, the input being taken (R10, R129). Model's
choices in it: the inputs are taken from `pending` (log 4), one of them may be a bare codeword (log 7), and `exec` checks `F`
itself, as the step does (log 17). -/
def Obligations.StepRunsDecodedInstruction : Prop :=
  ∀ (s : State) (u : HostInput) (rest : List HostInput) (i : Instr),
    s.pending = u :: rest → decodeInput s.config u = some i → step s = exec i { s with pending := rest }

/-- A request word, or a codeword, placed where the core takes its next input is what the next step runs. The place is the
model's choice (log 4), as are the bare codeword (log 7) and the widths (log 8). -/
def Obligations.PresentedWordRunsNext : Prop :=
  ∀ s : State,
    (∀ w : RequestWord, step (s.withFetchWord 32 w.toNat) = exec (decodeRequest w) s) ∧
    (∀ c : Codeword, step (s.withFetchWord 16 c.toNat) = exec (decodeCodeword s.config c) s)

/-- R144: the reset state, reached by the reset input from any state and by a core that starts; the configuration decides
between its two branches. That reset takes its input from `pending` (log 4) and
leaves the model's own lists alone (log 16) is the model's choice. -/
def Obligations.ResetTakesTheResetState : Prop :=
  (∀ (s : State) (rest : List HostInput), s.pending = .reset :: rest →
    ∃ t, step s = .next t ∧ t.config = s.config ∧ t.pending = rest ∧ t.responses = s.responses ∧ t.freq = 0 ∧
      (buildSucceeds s.config = true → fsrF t.fsr = false ∧ fsrCause t.fsr = 0) ∧
      (buildSucceeds s.config = false → fsrF t.fsr = true ∧ fsrCause t.fsr = 1)) ∧
  (∀ cfg : Config, (State.resetWith cfg).freq = 0 ∧
    (buildSucceeds cfg = true → (State.resetWith cfg).fsr = 0) ∧
    (buildSucceeds cfg = false → fsrF (State.resetWith cfg).fsr = true ∧ fsrCause (State.resetWith cfg).fsr = 1))

/-- In the default configuration the build succeeds, and the state after reset is the one `State.reset` writes out. The
default control table is PRESUMED (log 2); that the state is written out is log 11. -/
def Obligations.DefaultResetState : Prop :=
  State.resetWith Config.default = State.reset ∧ State.reset.fsr = 0 ∧ State.reset.freq = 0

/-- With nothing presented a step changes nothing: the model's choice (log 5), not a rule of the spec. -/
def Obligations.IdleStepHoldsState : Prop :=
  ∀ s : State, s.pending = [] → step s = .next s

/-- Reset of a core that is in its reset state changes nothing; reset of a core whose build succeeds clears any fault. -/
def Obligations.ResetIsIdempotent : Prop :=
  (∀ s : State, s.fsr = (State.resetWith s.config).fsr → s.freq = (State.resetWith s.config).freq → applyReset s = s) ∧
  (∀ s : State, buildSucceeds s.config = true →
    fsrF (applyReset s).fsr = false ∧ fsrCause (applyReset s).fsr = 0 ∧ (applyReset s).freq = 0)

/-! ### Faults -/

/-- R129: while `F` is 1 no instruction is served, the state and the response keep the first fault, and only reset leaves
the faulted state. -/
def Obligations.FaultedStateIsAbsorbing : Prop :=
  (∀ (s : State) (i : Instr), fsrF s.fsr = true → NotServed i s) ∧
  (∀ (s : State) (u : HostInput) (rest : List HostInput), fsrF s.fsr = true → s.pending = u :: rest → u ≠ .reset →
    step s = .next { s with
      pending := rest
      responses := { Response.blank with status := 1, fsr := s.fsr, freq := s.freq } :: s.responses }) ∧
  (∀ s t : State, fsrF s.fsr = true → step s = .next t → fsrF t.fsr = false → ∃ rest, s.pending = .reset :: rest)

/-- R127 and R130: which cause each operation raises and when, in the order of the checks; a request that breaks none is
answered. `firstBrokenCheck` (Safety) is the table of R127 over the numbers in the fields, in the order of R130. -/
def Obligations.FirstFailedCheckIsReported : Prop :=
  (∀ (s : State) (i : Instr), fsrF s.fsr = true → NotServed i s) ∧
  (∀ (s : State) (i : Instr) (cause : Cause), fsrF s.fsr = false → firstBrokenCheck i = some cause →
    TakesFault i s cause (requestOf s.config i)) ∧
  (∀ (s : State) (i : Instr), fsrF s.fsr = false → firstBrokenCheck i = none → ∃ body, AnswersWith i s body) ∧
  firstBrokenCheck (decodeRequest 0x1F001100) = some .byteRange

/-- An unfaulted core faults on an instruction exactly when an operand is outside the legal range of R47. -/
def Obligations.FaultsExactlyOnIllegalOperands : Prop :=
  ∀ (s : State) (i : Instr), fsrF s.fsr = false →
    ∃ t, exec i s = .next t ∧ (fsrF t.fsr = true ↔ operandsLegal i = false)

/-- R55: every step with an instruction returns one response that carries `FSR` and `FREQ` as they stand after it; its
status is `FAULT` exactly when the core is then faulted, and a fault response is 0 in every other field. -/
def Obligations.FaultResponseHoldsNoResult : Prop :=
  ∀ (s : State) (i : Instr), ∃ t r, exec i s = .next t ∧ t.responses = r :: s.responses ∧
    r.fsr = t.fsr ∧ r.freq = t.freq ∧ (r.status = 1 ↔ fsrF t.fsr = true) ∧ (r.status = 1 → resultBlank r) ∧
    t.config = s.config ∧ t.pending = s.pending

/-- Only a step that faults and reset write `FSR` and `FREQ`, a fault records the request word presented, and no step
writes the configuration. -/
def Obligations.OnlyFaultsAndResetWriteTheLatch : Prop :=
  ∀ s t : State, step s = .next t →
    t.config = s.config ∧
    (t.fsr ≠ s.fsr ∨ t.freq ≠ s.freq →
      (∃ rest, s.pending = .reset :: rest) ∨
      (fsrF s.fsr = false ∧ fsrF t.fsr = true ∧ ∃ w rest, s.pending = .request w :: rest ∧ t.freq = w))

/-- The codes of the causes and the places of `F` and `CAUSE` in `FSR` (R24, R126). -/
def Obligations.FaultStatusFields : Prop :=
  (∀ fsr : BitVec 4, fsr.toNat = (fsrF fsr).toNat + 2 * (fsrCause fsr).toNat) ∧
  (faultedFsr .buildCollision).toNat = 3 ∧ (faultedFsr .illegalOp).toNat = 5 ∧ (faultedFsr .byteRange).toNat = 7 ∧
  (faultedFsr .cwWidth).toNat = 9 ∧ (faultedFsr .ctrlPair).toNat = 11 ∧ (faultedFsr .badAux).toNat = 13

/-- R146: with a configuration whose registry build fails, whatever the host presents, resets among it, the core stays
faulted with `BUILD_COLLISION` and every response is the fault response; the default control table builds. -/
def Obligations.FailedBuildServesNothing : Prop :=
  (∀ (cfg : Config) (us : List HostInput) (k : Nat), buildSucceeds cfg = false →
    ∃ t : State, Host.Core.run Sys2Proof.core k { State.resetWith cfg with pending := us } = .next t ∧
      t.fsr = faultedFsr .buildCollision ∧ t.freq = 0 ∧
      ∀ r ∈ t.responses, r = { Response.blank with status := 1, fsr := faultedFsr .buildCollision }) ∧
  (∀ pol : BalPolarity, buildSucceeds { ctrlTable := CtrlTable.default, balPolarity := pol } = true)

/-! ### Invariants and runs -/

/-- Every step keeps the state invariant (R24, R25, R50, R51, R55, R126, R144), from every state that has it. -/
def Obligations.StepKeepsInvariant : Prop :=
  ∀ s t : State, StateInvariant s → step s = .next t → StateInvariant t

/-- The state after reset has the invariant, in every configuration. The second clause, for `State.reset`, needs that the
default control table builds, and that table is PRESUMED (log 2). -/
def Obligations.ResetHasInvariant : Prop :=
  (∀ cfg : Config, StateInvariant (State.resetWith cfg)) ∧ StateInvariant State.reset

/-- While the core is not faulted the response to an instruction depends on it alone: two states of one configuration,
whatever happened before, give the same response and the same `FSR` and `FREQ`. -/
def Obligations.ResponseDependsOnRequestAlone : Prop :=
  ∀ (i : Instr) (s t : State), StateInvariant s → StateInvariant t → s.config = t.config →
    fsrF s.fsr = false → fsrF t.fsr = false →
    ∃ r s' t', exec i s = .next s' ∧ exec i t = .next t' ∧ s'.responses = r :: s.responses ∧
      t'.responses = r :: t.responses ∧ s'.fsr = t'.fsr ∧ s'.freq = t'.freq

/-- A run over legal requests, from any unfaulted state with the invariant: it completes, leaves `FSR` and `FREQ` alone,
and its responses are, one for each request in order, the ones a freshly reset core gives. -/
def Obligations.LegalRequestsAnswerIndependently : Prop :=
  ∀ (s : State) (ws : List RequestWord) (rest : List HostInput), StateInvariant s → fsrF s.fsr = false →
    (∀ w ∈ ws, operandsLegal (decodeRequest w) = true) → s.pending = ws.map .request ++ rest →
    ∃ t : State, Host.Core.run Sys2Proof.core ws.length s = .next t ∧
      t.pending = rest ∧ t.config = s.config ∧ t.fsr = s.fsr ∧ t.freq = s.freq ∧
      t.responses.map some = (ws.map (freshAnswer s.config)).reverse ++ s.responses.map some

/-! ### The operations -/

/-- R83: `ENC`, its word, its checks in order, its response. -/
def Obligations.EncAnswersCandidates : Prop :=
  ∀ (s : State) (aux : Nibble) (b a : Field), fsrF s.fsr = false →
    (requestWord 0x1 0 0 a).toNat = 0x10000000 + a.toNat ∧
    (a.toNat > 255 → TakesFault (.enc aux b a) s .byteRange (requestWord 0x1 aux b a)) ∧
    (a.toNat ≤ 255 → (b ≠ 0 ∨ aux ≠ 0) → TakesFault (.enc aux b a) s .badAux (requestWord 0x1 aux b a)) ∧
    (a.toNat ≤ 255 → b = 0 → aux = 0 →
      ∃ first others, encodeByte s.config.balPolarity (BitVec.ofNat 8 a.toNat) = first :: others ∧
        ((others = [] ∧ AnswersWith (.enc aux b a) s { Response.blank with n := 1, cw0 := first }) ∨
          ∃ second, others = [second] ∧
            AnswersWith (.enc aux b a) s { Response.blank with n := 2, cw0 := first, cw1 := second }))

/-- R91: `CTL`, its word, its checks in order, its response. -/
def Obligations.CtlAnswersControlCodeword : Prop :=
  ∀ (s : State) (aux : Nibble) (b a : Field), fsrF s.fsr = false →
    (requestWord 0x2 0 0 a).toNat = 0x20000000 + a.toNat ∧
    (a.toNat > 3 → TakesFault (.ctl aux b a) s .ctrlPair (requestWord 0x2 aux b a)) ∧
    (a.toNat ≤ 3 → (b ≠ 0 ∨ aux ≠ 0) → TakesFault (.ctl aux b a) s .badAux (requestWord 0x2 aux b a)) ∧
    (a.toNat ≤ 3 → b = 0 → aux = 0 →
      AnswersWith (.ctl aux b a) s
        { Response.blank with cw0 := ctrlForward s.config.ctrlTable (a.getLsbD 0) (a.getLsbD 1) })

/-- R101: `CLS`, its word, its checks in order, its response for each symbol. -/
def Obligations.ClsAnswersSymbol : Prop :=
  ∀ (s : State) (aux : Nibble) (b a : Field), fsrF s.fsr = false →
    (requestWord 0x3 0 0 a).toNat = 0x30000000 + a.toNat ∧
    (a.toNat > 1023 → TakesFault (.cls aux b a) s .cwWidth (requestWord 0x3 aux b a)) ∧
    (a.toNat ≤ 1023 → (b ≠ 0 ∨ aux ≠ 0) → TakesFault (.cls aux b a) s .badAux (requestWord 0x3 aux b a)) ∧
    (a.toNat ≤ 1023 → b = 0 → aux = 0 →
      (∀ byte, classify s.config (BitVec.ofNat 10 a.toNat) = .data byte →
        AnswersWith (.cls aux b a) s { Response.blank with tag := 1, payload := byte }) ∧
      (∀ c0 c1, classify s.config (BitVec.ofNat 10 a.toNat) = .control c0 c1 →
        AnswersWith (.cls aux b a) s
          { Response.blank with tag := 2, payload := BitVec.ofNat 8 (c0.toNat + 2 * c1.toNat) }) ∧
      (classify s.config (BitVec.ofNat 10 a.toNat) = .forbidden → AnswersWith (.cls aux b a) s Response.blank))

/-- R72: `HAM`, its word, its checks in order, its response; the distance fits its field. -/
def Obligations.HamAnswersDistance : Prop :=
  ∀ (s : State) (aux : Nibble) (b a : Field), fsrF s.fsr = false →
    (requestWord 0x4 0 b a).toNat = 0x40000000 + b.toNat * 0x1000 + a.toNat ∧
    (a.toNat > 1023 ∨ b.toNat > 1023 → TakesFault (.ham aux b a) s .cwWidth (requestWord 0x4 aux b a)) ∧
    (a.toNat ≤ 1023 → b.toNat ≤ 1023 → aux ≠ 0 →
      TakesFault (.ham aux b a) s .badAux (requestWord 0x4 aux b a)) ∧
    (a.toNat ≤ 1023 → b.toNat ≤ 1023 → aux = 0 →
      ∃ dist : BitVec 4, dist.toNat = hamming (BitVec.ofNat 10 a.toNat) (BitVec.ofNat 10 b.toNat) ∧
        AnswersWith (.ham aux b a) s { Response.blank with dist := dist })

/-- R114: `NVS`, its word, its checks in order, its response: the true minimum distance to the selected set and every
element that achieves it. -/
def Obligations.NvsAnswersNearestSet : Prop :=
  ∀ (s : State) (aux : Nibble) (b a : Field), fsrF s.fsr = false →
    (requestWord 0x5 aux 0 a).toNat = 0x50000000 + aux.toNat * 0x1000000 + a.toNat ∧
    (a.toNat > 1023 → TakesFault (.nvs aux b a) s .cwWidth (requestWord 0x5 aux b a)) ∧
    (a.toNat ≤ 1023 → (b ≠ 0 ∨ aux = 0 ∨ aux.toNat > 3) →
      TakesFault (.nvs aux b a) s .badAux (requestWord 0x5 aux b a)) ∧
    (a.toNat ≤ 1023 → b = 0 → aux ≠ 0 → aux.toNat ≤ 3 →
      ∃ (dist : BitVec 4) (n : BitVec 11) (near : CodewordSet),
        NearestIn (fun c => (aux.getLsbD 0 = true ∧ IsData s.config c) ∨ (aux.getLsbD 1 = true ∧ IsControl s.config c))
          (BitVec.ofNat 10 a.toNat) dist.toNat near ∧
        n.toNat = card near ∧
        AnswersWith (.nvs aux b a) s { Response.blank with dist := dist, set := near, n := n })

/-- R117 with the classes of R115: `FCL`, its word, its checks in order, its response. -/
def Obligations.FclAnswersClass : Prop :=
  ∀ (s : State) (aux : Nibble) (b a : Field), fsrF s.fsr = false →
    (requestWord 0x6 0 0 a).toNat = 0x60000000 + a.toNat ∧
    (a.toNat > 1023 → TakesFault (.fcl aux b a) s .cwWidth (requestWord 0x6 aux b a)) ∧
    (a.toNat ≤ 1023 → (b ≠ 0 ∨ aux ≠ 0) → TakesFault (.fcl aux b a) s .badAux (requestWord 0x6 aux b a)) ∧
    (a.toNat ≤ 1023 → b = 0 → aux = 0 →
      ∃ (dist : BitVec 4) (n : BitVec 11) (near : CodewordSet) (fclass : BitVec 2),
        NearestIn (fun c => IsData s.config c ∨ IsControl s.config c) (BitVec.ofNat 10 a.toNat) dist.toNat near ∧
        n.toNat = card near ∧
        (fclass = 0 ↔ classify s.config (BitVec.ofNat 10 a.toNat) ≠ .forbidden) ∧
        (fclass = 1 ↔ classify s.config (BitVec.ofNat 10 a.toNat) = .forbidden ∧ dist = 1 ∧ n = 1) ∧
        (fclass = 2 ↔ classify s.config (BitVec.ofNat 10 a.toNat) = .forbidden ∧ dist = 1 ∧ 2 ≤ n.toNat) ∧
        (fclass = 3 ↔ classify s.config (BitVec.ofNat 10 a.toNat) = .forbidden ∧ 2 ≤ dist.toNat) ∧
        AnswersWith (.fcl aux b a) s { Response.blank with dist := dist, set := near, n := n, fclass := fclass })

/-- R119: `ROB`, its word, its checks in order, its response: the rotated control codeword and its nearest data
codewords. -/
def Obligations.RobAnswersRotatedDistance : Prop :=
  ∀ (s : State) (aux : Nibble) (b a : Field), fsrF s.fsr = false →
    (requestWord 0x7 aux 0 a).toNat = 0x70000000 + aux.toNat * 0x1000000 + a.toNat ∧
    (a.toNat > 3 → TakesFault (.rob aux b a) s .ctrlPair (requestWord 0x7 aux b a)) ∧
    (a.toNat ≤ 3 → (b ≠ 0 ∨ aux.toNat > 9) → TakesFault (.rob aux b a) s .badAux (requestWord 0x7 aux b a)) ∧
    (a.toNat ≤ 3 → b = 0 → aux.toNat ≤ 9 →
      ∃ (dist : BitVec 4) (n : BitVec 11) (near : CodewordSet),
        NearestIn (IsData s.config)
          (rotl aux.toNat (ctrlForward s.config.ctrlTable (a.getLsbD 0) (a.getLsbD 1))) dist.toNat near ∧
        n.toNat = card near ∧
        AnswersWith (.rob aux b a) s
          { Response.blank with
            cw0 := rotl aux.toNat (ctrlForward s.config.ctrlTable (a.getLsbD 0) (a.getLsbD 1))
            dist := dist, set := near, n := n })

/-- R104: `CNT`, its word, its checks, its response: how many codewords `classify` calls data, control and forbidden. -/
def Obligations.CntCountsCodewordSpace : Prop :=
  (requestWord 0x8 0 0 0).toNat = 0x80000000 ∧
  ∀ (s : State) (aux : Nibble) (b a : Field), fsrF s.fsr = false →
    ((a ≠ 0 ∨ b ≠ 0 ∨ aux ≠ 0) → TakesFault (.cnt aux b a) s .badAux (requestWord 0x8 aux b a)) ∧
    (a = 0 → b = 0 → aux = 0 →
      ∃ n n2 n3 : BitVec 11,
        n.toNat = allCodewords.countP (fun c => symbolTag (classify s.config c) == 1) ∧
        n2.toNat = allCodewords.countP (fun c => symbolTag (classify s.config c) == 2) ∧
        n3.toNat = allCodewords.countP (fun c => symbolTag (classify s.config c) == 0) ∧
        n.toNat + n2.toNat + n3.toNat = 1024 ∧
        (buildSucceeds s.config = true → n2 = 4) ∧
        AnswersWith (.cnt aux b a) s { Response.blank with n := n, n2 := n2, n3 := n3 })

/-- R48: each reserved operation code faults with `ILLEGAL_OP`, whatever the other fields hold. -/
def Obligations.ReservedCodesFault : Prop :=
  ∀ (s : State) (aux : Nibble) (b a : Field), fsrF s.fsr = false →
    TakesFault (.reserved0 aux b a) s .illegalOp (requestWord 0x0 aux b a) ∧
    TakesFault (.reserved9 aux b a) s .illegalOp (requestWord 0x9 aux b a) ∧
    TakesFault (.reservedA aux b a) s .illegalOp (requestWord 0xA aux b a) ∧
    TakesFault (.reservedB aux b a) s .illegalOp (requestWord 0xB aux b a) ∧
    TakesFault (.reservedC aux b a) s .illegalOp (requestWord 0xC aux b a) ∧
    TakesFault (.reservedD aux b a) s .illegalOp (requestWord 0xD aux b a) ∧
    TakesFault (.reservedE aux b a) s .illegalOp (requestWord 0xE aux b a) ∧
    TakesFault (.reservedF aux b a) s .illegalOp (requestWord 0xF aux b a)

/-- A bare codeword of each of the seven formats answers the symbol that R43 and R100 give it. That a bare codeword can be
presented is the model's choice (log 7). -/
def Obligations.CodewordFormatsAnswerSymbols : Prop :=
  ∀ s : State, fsrF s.fsr = false → buildSucceeds s.config = true →
    (∀ d, directCodeword (baseWord d) (flagX d) ∈ encodeByte s.config.balPolarity d →
      AnswersWith (.dataDirect (flagX d) (baseWord d)) s { Response.blank with tag := 1, payload := d }) ∧
    (∀ d, invertedCodeword (baseWord d) (flagX d) ∈ encodeByte s.config.balPolarity d →
      AnswersWith (.dataInverted (flagX d) (invert (baseWord d))) s { Response.blank with tag := 1, payload := d }) ∧
    AnswersWith .ctrl00 s { Response.blank with tag := 2, payload := 0 } ∧
    AnswersWith .ctrl10 s { Response.blank with tag := 2, payload := 1 } ∧
    AnswersWith .ctrl01 s { Response.blank with tag := 2, payload := 2 } ∧
    AnswersWith .ctrl11 s { Response.blank with tag := 2, payload := 3 } ∧
    (∀ v, ¬ IsData s.config v → ¬ IsControl s.config v → AnswersWith (.forbidden v) s Response.blank)

/-- A bare codeword does exactly what the request `CLS` of it does, in every state: the model's choice (log 7), after the
pseudo-operation `DEC` of R58. -/
def Obligations.BareCodewordActsAsCls : Prop :=
  ∀ (s : State) (c : Codeword),
    exec (decodeCodeword s.config c) s = exec (.cls 0 0 (BitVec.ofNat 12 c.toNat)) s

/-- R51: tag and payload of each symbol; the tag 3 is never produced. -/
def Obligations.SymbolOnThePort : Prop :=
  (∀ byte, symbolTag (.data byte) = 1 ∧ symbolPayload (.data byte) = byte) ∧
  (∀ c0 c1, symbolTag (.control c0 c1) = 2 ∧ (symbolPayload (.control c0 c1)).getLsbD 0 = c0 ∧
    (symbolPayload (.control c0 c1)).getLsbD 1 = c1 ∧ (symbolPayload (.control c0 c1)).toNat < 4) ∧
  symbolTag .forbidden = 0 ∧ symbolPayload .forbidden = 0 ∧ ∀ sym, symbolTag sym ≠ 3

/-! ### The bit-vector primitives -/

/-- R60: `fromInteger` has a value exactly in `[0, 2^n)`, and it is the binary digits, index 0 the least significant. -/
def Obligations.FromIntegerDigits : Prop :=
  (∀ (n : Nat) (x : Int) (v : BitVec n), fromInteger x n = some v ↔
    (0 ≤ x ∧ x < 2 ^ n ∧ ∀ i < n, v.getLsbD i = decide (x / 2 ^ i % 2 = 1))) ∧
  (∀ (n : Nat) (x : Int), fromInteger x n = none ↔ x < 0 ∨ 2 ^ n ≤ x) ∧
  (∀ n : Nat, fromInteger 0 n = some 0 ∧ fromInteger (2 ^ n - 1) n = some (BitVec.allOnes n) ∧
    fromInteger (2 ^ n) n = none) ∧
  (fromInteger 0x10 8).map bitsOf = some [false, false, false, false, true, false, false, false]

/-- `toInteger` is the sum of `v[i]·2^i`, in range, and the two conversions are inverse (R61). -/
def Obligations.ToIntegerInverse : Prop :=
  (∀ (n : Nat) (v : BitVec n), toInteger v = ∑ i ∈ Finset.range n, if v.getLsbD i then (2 : Int) ^ i else 0) ∧
  (∀ (n : Nat) (v : BitVec n), 0 ≤ toInteger v ∧ toInteger v < 2 ^ n ∧ fromInteger (toInteger v) n = some v) ∧
  (∀ (n : Nat) (x : Int), 0 ≤ x → x < 2 ^ n → (fromInteger x n).map toInteger = some x)

/-- R62: where a rotation by one moves each bit, for every width, and the laws of repeated rotation. -/
def Obligations.RotateMovesBits : Prop :=
  (∀ (n : Nat) (v : BitVec n), 1 ≤ n →
    (∀ i < n, (rotate v .left).getLsbD ((i + 1) % n) = v.getLsbD i) ∧
    (∀ i < n, (rotate v .right).getLsbD i = v.getLsbD ((i + 1) % n)) ∧
    (rotate v .left).toNat = 2 * v.toNat % 2 ^ n + v.toNat / 2 ^ (n - 1) ∧
    rotate (rotate v .left) .right = v ∧
    (∀ k, rotl k v = (fun x : BitVec n => rotate x .left)^[k] v) ∧
    rotl n v = v ∧
    ∀ k ≤ n, (fun x : BitVec n => rotate x .right)^[k] v = rotl (n - k) v) ∧
  rotate (0x354 : Codeword) .left = 0x2A9 ∧ rotate (0x354 : Codeword) .right = 0x1AA

/-- R63: `invert` complements every bit; twice is the identity; on the integer it is `2^n - 1 - x`. -/
def Obligations.InvertComplements : Prop :=
  (∀ (n : Nat) (v : BitVec n),
    (∀ i < n, (invert v).getLsbD i = !v.getLsbD i) ∧ invert (invert v) = v ∧
    toInteger (invert v) = 2 ^ n - 1 - toInteger v) ∧
  invert (0x0F : Byte) = 0xF0

/-- The truth tables of `xor` and `xnor` on bits: general knowledge, PRESUMED (log 12). -/
def Obligations.BitOperatorTables : Prop :=
  (xorBit false false = false ∧ xorBit false true = true ∧ xorBit true false = true ∧ xorBit true true = false) ∧
  (xnorBit false false = true ∧ xnorBit false true = false ∧ xnorBit true false = false ∧ xnorBit true true = true)

/-- R66: `transitions` counts the adjacent differing positions, linearly, and does not change under `invert`. -/
def Obligations.TransitionsCountChanges : Prop :=
  (∀ (n : Nat) (v : BitVec n),
    transitions v = (List.range (n - 1)).countP (fun i => v.getLsbD i != v.getLsbD (i + 1)) ∧
    transitions v ≤ n - 1 ∧ transitions (invert v) = transitions v) ∧
  transitions (0xF0 : Byte) = 1 ∧ transitions (0x354 : Codeword) = 7 ∧ transitions (0x2AA : Codeword) = 9

/-- R67, R68, R69: `ones`, `zeros` and `bias`, their ranges, and the bias of the complement. -/
def Obligations.OnesZerosBias : Prop :=
  (∀ (n : Nat) (v : BitVec n),
    ones v = (List.range n).countP (fun i => v.getLsbD i) ∧ ones v ≤ n ∧
    (zeros v : Int) = (n : Int) - (ones v : Int) ∧ zeros v ≤ n ∧
    bias v = 2 * (ones v : Int) - (n : Int) ∧ -(n : Int) ≤ bias v ∧ bias v ≤ (n : Int) ∧
    (bias v - (n : Int)) % 2 = 0 ∧ bias (invert v) = -bias v) ∧
  ones (0xEF : Byte) = 7 ∧ zeros (0xEF : Byte) = 1 ∧ bias (0xF0 : Byte) = 0 ∧ bias (0xFF : Byte) = 8

/-- The Hamming distance (R70): the count of differing positions; a metric, `n` on complements, kept by rotation. -/
def Obligations.HammingIsAMetric : Prop :=
  ∀ (n : Nat) (a b c : BitVec n),
    hamming a b = (List.range n).countP (fun i => xorBit (a.getLsbD i) (b.getLsbD i)) ∧
    hamming a b ≤ n ∧ (hamming a b = 0 ↔ a = b) ∧ hamming a b = hamming b a ∧ hamming a (invert a) = n ∧
    hamming a c ≤ hamming a b + hamming b c ∧ ∀ k, 1 ≤ n → hamming (rotl k a) (rotl k b) = hamming a b

/-! ### The encoder -/

/-- R76, R77, R78: stage 1, bit by bit. -/
def Obligations.StageOneBitByBit : Prop :=
  ∀ d : Byte,
    (useXnor d = true ↔ ones d > 4 ∨ (ones d = 4 ∧ d.getLsbD 0 = false)) ∧
    (baseWord d).getLsbD 0 = d.getLsbD 0 ∧
    (∀ k < 7, (baseWord d).getLsbD (k + 1) =
      if useXnor d then xnorBit ((baseWord d).getLsbD k) (d.getLsbD (k + 1))
      else xorBit ((baseWord d).getLsbD k) (d.getLsbD (k + 1))) ∧
    (flagX d = false ↔ useXnor d = true) ∧
    ∀ pol, ∀ c ∈ encodeByte pol d, bitX c = flagX d

/-- R79, R80: stage 2, the candidates in order under each `BAL_POLARITY`, with the fields of each candidate. -/
def Obligations.StageTwoOffersPolarities : Prop :=
  ∀ d : Byte,
    (∀ pol, bias (baseWord d) ≠ 0 → encodeByte pol d =
      [directCodeword (baseWord d) (flagX d), invertedCodeword (baseWord d) (flagX d)]) ∧
    (bias (baseWord d) = 0 → flagX d = true → encodeByte .followX d = [directCodeword (baseWord d) (flagX d)]) ∧
    (bias (baseWord d) = 0 → flagX d = false → encodeByte .followX d = [invertedCodeword (baseWord d) (flagX d)]) ∧
    (bias (baseWord d) = 0 → encodeByte .alwaysDirect d = [directCodeword (baseWord d) (flagX d)]) ∧
    (payloadOf (directCodeword (baseWord d) (flagX d)) = baseWord d ∧
      bitX (directCodeword (baseWord d) (flagX d)) = flagX d ∧
      bitI (directCodeword (baseWord d) (flagX d)) = false) ∧
    (payloadOf (invertedCodeword (baseWord d) (flagX d)) = invert (baseWord d) ∧
      bitX (invertedCodeword (baseWord d) (flagX d)) = flagX d ∧
      bitI (invertedCodeword (baseWord d) (flagX d)) = true)

/-- What holds of every byte's candidates: from R85, one or two of them, at most 4 transitions over bits 0 to 8, the two
candidates of a byte complementary in the payload, equal in `X`, apart in `I`, their payload biases cancelling, and the round
trip; and the bounds 3 (payload) and 5 (ten bits), which R84 (b) and (d) infer. -/
def Obligations.EncoderKeepsItsProperties : Prop :=
  ∀ (pol : BalPolarity) (d : Byte),
    ((encodeByte pol d).length = 1 ∨ (encodeByte pol d).length = 2) ∧
    transitions (baseWord d) ≤ 3 ∧
    (∀ c ∈ encodeByte pol d,
      transitions (payloadOf c) ≤ 3 ∧ transitions (c.extractLsb' 0 9) ≤ 4 ∧ transitions c ≤ 5 ∧
      ∀ t : CtrlTable, classify { ctrlTable := t, balPolarity := pol } c = .data d) ∧
    ∀ c₁ c₂, encodeByte pol d = [c₁, c₂] →
      payloadOf c₂ = invert (payloadOf c₁) ∧ bitI c₁ = false ∧ bitI c₂ = true ∧ bitX c₁ = bitX c₂ ∧
      bias (payloadOf c₁) + bias (payloadOf c₂) = 0 ∧ bias c₁ + bias c₂ = if bitX c₁ then 2 else -2

/-! ### The registry -/

/-- R90: `ctrlForward` reads the table, `ctrlReverse` has a value exactly at its codewords, and the two are inverse: from
the codeword always, from the pair when the entries are pairwise distinct (the injectivity R90 asks for). -/
def Obligations.ControlTableInverse : Prop :=
  (∀ t : CtrlTable, ctrlForward t false false = t.cw00 ∧ ctrlForward t true false = t.cw10 ∧
    ctrlForward t false true = t.cw01 ∧ ctrlForward t true true = t.cw11) ∧
  (∀ (t : CtrlTable) (c : Codeword),
    (∀ c0 c1, ctrlReverse t c = some (c0, c1) → ctrlForward t c0 c1 = c) ∧
    (ctrlReverse t c = none ↔ ∀ c0 c1, ctrlForward t c0 c1 ≠ c)) ∧
  (∀ t : CtrlTable,
    (∀ p ∈ allPairs, ∀ q ∈ allPairs, ctrlForward t p.1 p.2 = ctrlForward t q.1 q.2 → p = q) →
    ∀ c0 c1, ctrlReverse t (ctrlForward t c0 c1) = some (c0, c1))

/-- The build succeeds exactly on a control table that keeps its contract, and then the four maps it returns agree with the
four read-only tables at every index; no other configuration builds (R88, R94 to R98). -/
def Obligations.BuildFillsTheTables : Prop :=
  ∀ cfg : Config,
    (buildSucceeds cfg = true ↔ LegalTable cfg) ∧
    ∀ r, build cfg = some r →
      (∀ d, r.dataForward.lookup d = some (romDataFwd cfg d)) ∧
      (∀ c, lookupMap r.dataReverse c = romDataRev cfg c) ∧
      (∀ p, r.ctrlForward.lookup (pairC0 p, pairC1 p) = some (romCtrlFwd cfg p)) ∧
      (∀ c, lookupMap r.ctrlReverse c = romCtrlRev cfg c)

/-- The default control table keeps its contract under both polarities. Its values are PRESUMED (log 2). -/
def Obligations.DefaultTableContract : Prop :=
  ∀ pol : BalPolarity, LegalTable { ctrlTable := CtrlTable.default, balPolarity := pol }

/-- R96: `dataReverse[c] = D` exactly when `c` is a candidate of `D`, so no codeword has two bytes; its domain is DATA,
which has 460 elements. -/
def Obligations.DataReverseIsExact : Prop :=
  ∀ pol : BalPolarity,
    (∀ (c : Codeword) (d : Byte), dataReverse pol c = some d ↔ c ∈ encodeByte pol d) ∧
    (∀ d₁ d₂ : Byte, ∀ c ∈ encodeByte pol d₁, c ∈ encodeByte pol d₂ → d₁ = d₂) ∧
    (∀ c : Codeword, inSet c (dataSet pol) = true ↔ (dataReverse pol c).isSome = true) ∧
    card (dataSet pol) = 460

/-- The direct decoder equals the registry's reverse lookup on every codeword, under both polarities (R105). -/
def Obligations.DirectDecoderAgrees : Prop :=
  ∀ (pol : BalPolarity) (c : Codeword), decode10 pol c = dataReverse pol c

/-- Classification undoes encoding, for data and for control, and only that is data (R102). -/
def Obligations.ClassifyRoundTrip : Prop :=
  ∀ cfg : Config,
    (∀ d, ∀ c ∈ romDataFwd cfg d, classify cfg c = .data d) ∧
    (∀ c d, classify cfg c = .data d → c ∈ romDataFwd cfg d) ∧
    (buildSucceeds cfg = true → ∀ c0 c1, classify cfg (ctrlForward cfg.ctrlTable c0 c1) = .control c0 c1)

/-- R19 and R103: in a configuration whose registry builds, every codeword is exactly one of data, control and forbidden;
DATA, CTRL and FORB are those three sets, and their sizes add up. -/
def Obligations.PartitionLaw : Prop :=
  ∀ cfg : Config, buildSucceeds cfg = true →
    (∀ c : Codeword,
      ((romDataRev cfg c).isSome = true ∧ (romCtrlRev cfg c).isSome = false ∧ classify cfg c ≠ .forbidden) ∨
      ((romDataRev cfg c).isSome = false ∧ (romCtrlRev cfg c).isSome = true ∧ classify cfg c ≠ .forbidden) ∨
      ((romDataRev cfg c).isSome = false ∧ (romCtrlRev cfg c).isSome = false ∧ classify cfg c = .forbidden)) ∧
    (∀ c : Codeword, (inSet c (dataSet cfg.balPolarity) = true ↔ (romDataRev cfg c).isSome = true) ∧
      (inSet c (ctrlSet cfg.ctrlTable) = true ↔ (romCtrlRev cfg c).isSome = true) ∧
      (inSet c (forbiddenSet cfg) = true ↔ classify cfg c = .forbidden) ∧
      (inSet c (validSet cfg) = true ↔ classify cfg c ≠ .forbidden)) ∧
    card (dataSet cfg.balPolarity) + card (ctrlSet cfg.ctrlTable) + card (forbiddenSet cfg) = 1024 ∧
    card (ctrlSet cfg.ctrlTable) = 4

/-- The sizes of the sets in the default configuration, under both polarities (R106); the control table is PRESUMED
(log 2). -/
def Obligations.DefaultSizes : Prop :=
  ∀ pol : BalPolarity,
    card (dataSet pol) = 460 ∧ card (controlSet { ctrlTable := CtrlTable.default, balPolarity := pol }) = 4 ∧
    card (forbiddenSet { ctrlTable := CtrlTable.default, balPolarity := pol }) = 560

/-! ### The analysis engine -/

/-- R110 and R111: `nearestValid` over any set gives exactly the true minimum distance and the complete set of minimisers,
and has no value exactly on the empty set (R112; that the model answers none there is DEDUCED, log 10). -/
def Obligations.NearestValidIsExact : Prop :=
  ∀ (c : Codeword) (S : CodewordSet),
    (∀ (d : Nat) (near : CodewordSet),
      nearestValid c S = some (d, near) ↔ NearestIn (fun t => inSet t S = true) c d near) ∧
    (nearestValid c S = none ↔ S = 0) ∧
    (∀ (d : Nat) (near : CodewordSet), nearestValid c S = some (d, near) →
      d ≤ 10 ∧ (d = 0 ↔ inSet c S = true) ∧ (d = 0 → ∀ t, inSet t near = true ↔ t = c))

/-- Distance 0 to VALID means not forbidden, and distance 0 to DATA means data, in every configuration (R124). -/
def Obligations.ZeroDistanceMeansMember : Prop :=
  ∀ (cfg : Config) (c : Codeword),
    (∃ d near, nearestValid c (validSet cfg) = some (d, near) ∧ (d = 0 ↔ classify cfg c ≠ .forbidden)) ∧
    (∃ d near, nearestValid c (dataSet cfg.balPolarity) = some (d, near) ∧
      (d = 0 ↔ ∃ byte, classify cfg c = .data byte))
end

