-- ==== Sys2Proof/Laws/PerInstr.lean ====
section
/-! SUPPORT. The family `OpCode`: the encoding of a request form holds the operation code of its row in bits 31:28 (spec
R45, R46), and a codeword format is encoded as a bare codeword (R43). -/

namespace Sys2Proof.Laws.OpCode

/-- The operation code in bits 31:28 of what an instruction is encoded as; none for a bare codeword. -/
def codeOf : HostInput → Option Nibble
  | .request w => some (opField w)
  | .codeword _ => none
  | .reset => none

/-- The operation code of an instruction's row (R46), none for a codeword format. -/
def rowCode : Instr → Option Nibble
  | .enc _ _ _ => some 0x1
  | .ctl _ _ _ => some 0x2
  | .cls _ _ _ => some 0x3
  | .ham _ _ _ => some 0x4
  | .nvs _ _ _ => some 0x5
  | .fcl _ _ _ => some 0x6
  | .rob _ _ _ => some 0x7
  | .cnt _ _ _ => some 0x8
  | .reserved0 _ _ _ => some 0x0
  | .reserved9 _ _ _ => some 0x9
  | .reservedA _ _ _ => some 0xA
  | .reservedB _ _ _ => some 0xB
  | .reservedC _ _ _ => some 0xC
  | .reservedD _ _ _ => some 0xD
  | .reservedE _ _ _ => some 0xE
  | .reservedF _ _ _ => some 0xF
  | .dataDirect _ _ => none
  | .dataInverted _ _ => none
  | .ctrl00 => none
  | .ctrl10 => none
  | .ctrl01 => none
  | .ctrl11 => none
  | .forbidden _ => none

/-- The encoding of an instruction has the operation code of its row, in every configuration. -/
def Statement (i : Instr) : Prop := ∀ cfg : Config, codeOf (encode cfg i) = rowCode i

/-- `REQ[31:28]` of an assembled request word is the operation code. -/
theorem opField_requestWord (op aux : Nibble) (b a : Field) : opField (requestWord op aux b a) = op := by
  apply BitVec.eq_of_toNat_eq
  have h1 := op.isLt
  have h2 := aux.isLt
  have h3 := b.isLt
  have h4 := a.isLt
  simp only [opField, requestWord, BitVec.toNat_ofNat]
  omega

theorem enc (aux : Nibble) (b a : Field) : Statement (.enc aux b a) := fun _ => congrArg some (opField_requestWord _ _ _ _)
theorem ctl (aux : Nibble) (b a : Field) : Statement (.ctl aux b a) := fun _ => congrArg some (opField_requestWord _ _ _ _)
theorem cls (aux : Nibble) (b a : Field) : Statement (.cls aux b a) := fun _ => congrArg some (opField_requestWord _ _ _ _)
theorem ham (aux : Nibble) (b a : Field) : Statement (.ham aux b a) := fun _ => congrArg some (opField_requestWord _ _ _ _)
theorem nvs (aux : Nibble) (b a : Field) : Statement (.nvs aux b a) := fun _ => congrArg some (opField_requestWord _ _ _ _)
theorem fcl (aux : Nibble) (b a : Field) : Statement (.fcl aux b a) := fun _ => congrArg some (opField_requestWord _ _ _ _)
theorem rob (aux : Nibble) (b a : Field) : Statement (.rob aux b a) := fun _ => congrArg some (opField_requestWord _ _ _ _)
theorem cnt (aux : Nibble) (b a : Field) : Statement (.cnt aux b a) := fun _ => congrArg some (opField_requestWord _ _ _ _)
theorem reserved0 (aux : Nibble) (b a : Field) : Statement (.reserved0 aux b a) := fun _ => congrArg some (opField_requestWord _ _ _ _)
theorem reserved9 (aux : Nibble) (b a : Field) : Statement (.reserved9 aux b a) := fun _ => congrArg some (opField_requestWord _ _ _ _)
theorem reservedA (aux : Nibble) (b a : Field) : Statement (.reservedA aux b a) := fun _ => congrArg some (opField_requestWord _ _ _ _)
theorem reservedB (aux : Nibble) (b a : Field) : Statement (.reservedB aux b a) := fun _ => congrArg some (opField_requestWord _ _ _ _)
theorem reservedC (aux : Nibble) (b a : Field) : Statement (.reservedC aux b a) := fun _ => congrArg some (opField_requestWord _ _ _ _)
theorem reservedD (aux : Nibble) (b a : Field) : Statement (.reservedD aux b a) := fun _ => congrArg some (opField_requestWord _ _ _ _)
theorem reservedE (aux : Nibble) (b a : Field) : Statement (.reservedE aux b a) := fun _ => congrArg some (opField_requestWord _ _ _ _)
theorem reservedF (aux : Nibble) (b a : Field) : Statement (.reservedF aux b a) := fun _ => congrArg some (opField_requestWord _ _ _ _)
theorem dataDirect (x : Bool) (payload : Byte) : Statement (.dataDirect x payload) := fun _ => rfl
theorem dataInverted (x : Bool) (payload : Byte) : Statement (.dataInverted x payload) := fun _ => rfl
theorem ctrl00 : Statement .ctrl00 := fun _ => rfl
theorem ctrl10 : Statement .ctrl10 := fun _ => rfl
theorem ctrl01 : Statement .ctrl01 := fun _ => rfl
theorem ctrl11 : Statement .ctrl11 := fun _ => rfl
theorem forbidden (v : Codeword) : Statement (.forbidden v) := fun _ => rfl

end Sys2Proof.Laws.OpCode
end

