-- ==== Sys2Proof/Laws/Sets.lean ====
section
/-! SUPPORT. Sets of codewords as masks: membership in each set operation, and in the sets of the registry. -/

namespace Sys2Proof.Machine

theorem mem_allBytes (d : Byte) : d ∈ allBytes :=
  List.mem_map.2 ⟨d.toNat, List.mem_range.2 d.isLt, by simp⟩

theorem mem_allCodewords (c : Codeword) : c ∈ allCodewords :=
  List.mem_map.2 ⟨c.toNat, List.mem_range.2 c.isLt, by simp⟩

theorem mem_allPairs (p : Bool × Bool) : p ∈ allPairs := by
  obtain ⟨a, b⟩ := p
  cases a <;> cases b <;> decide

/-- A property of every byte from its evaluation on the list of them (a form the kernel evaluates fast). -/
theorem forall_byte {p : Byte → Bool} (h : allBytes.all p = true) (d : Byte) : p d = true :=
  List.all_eq_true.1 h d (mem_allBytes d)

/-- A property of every codeword from its evaluation on the list of them (a form the kernel evaluates fast). -/
theorem forall_codeword {p : Codeword → Bool} (h : allCodewords.all p = true) (c : Codeword) : p c = true :=
  List.all_eq_true.1 h c (mem_allCodewords c)

@[simp] theorem inSet_zero (c : Codeword) : inSet c 0#1024 = false := by simp [inSet]

@[simp] theorem inSet_or (c : Codeword) (s t : CodewordSet) : inSet c (s ||| t) = (inSet c s || inSet c t) := by
  simp [inSet]

@[simp] theorem inSet_and (c : Codeword) (s t : CodewordSet) : inSet c (s &&& t) = (inSet c s && inSet c t) := by
  simp [inSet]

@[simp] theorem inSet_not (c : Codeword) (s : CodewordSet) : inSet c (~~~s) = !inSet c s := by
  have h : c.toNat < 1024 := c.isLt
  simp [inSet, h]

@[simp] theorem inSet_singleton (c t : Codeword) : inSet c (singleton t) = decide (c = t) := by
  have hc : c.toNat < 1024 := c.isLt
  have e : (c = t) ↔ (t.toNat = c.toNat) := ⟨fun h => by rw [h], fun h => BitVec.eq_of_toNat_eq h.symm⟩
  simp only [inSet, singleton, BitVec.getLsbD_ofNat, hc, Nat.testBit_two_pow, e, decide_true, Bool.true_and]

theorem inSet_foldl (c : Codeword) (l : List Codeword) (s : CodewordSet) :
    inSet c (l.foldl (fun s c => s ||| singleton c) s) = (inSet c s || decide (c ∈ l)) := by
  induction l generalizing s with
  | nil => simp
  | cons t rest ih => rw [List.foldl_cons, ih]; simp [Bool.or_assoc]

/-- A codeword is in the set of a list exactly when it is in the list. -/
@[simp] theorem inSet_setOf (c : Codeword) (l : List Codeword) : inSet c (setOf l) = decide (c ∈ l) := by
  simp [setOf, inSet_foldl]

@[simp] theorem mem_members (c : Codeword) (s : CodewordSet) : c ∈ members s ↔ inSet c s = true := by
  simp [members, mem_allCodewords]

/-- Two sets with the same members are the same mask. -/
theorem set_ext {s t : CodewordSet} (h : ∀ c, inSet c s = inSet c t) : s = t := by
  apply BitVec.eq_of_getLsbD_eq
  intro i hi
  have := h (BitVec.ofNat 10 i)
  simpa [inSet, Nat.mod_eq_of_lt hi] using this

/-- Membership in DATA. -/
theorem inSet_dataSet (pol : BalPolarity) (c : Codeword) :
    inSet c (dataSet pol) = true ↔ ∃ d : Byte, c ∈ encodeByte pol d := by
  simp only [dataSet, inSet_setOf, decide_eq_true_eq, List.mem_flatMap]
  exact ⟨fun ⟨d, _, h⟩ => ⟨d, h⟩, fun ⟨d, h⟩ => ⟨d, mem_allBytes d, h⟩⟩

/-- Membership in CTRL. -/
theorem inSet_ctrlSet (t : CtrlTable) (c : Codeword) :
    inSet c (ctrlSet t) = true ↔ ∃ c0 c1 : Bool, c = ctrlForward t c0 c1 := by
  simp only [ctrlSet, inSet_setOf, decide_eq_true_eq, List.mem_map]
  exact ⟨fun ⟨p, _, h⟩ => ⟨p.1, p.2, h.symm⟩, fun ⟨c0, c1, h⟩ => ⟨(c0, c1), mem_allPairs _, h.symm⟩⟩

/-- Membership in VALID. -/
theorem inSet_validSet (cfg : Config) (c : Codeword) :
    inSet c (validSet cfg) = true ↔ IsData cfg c ∨ IsControl cfg c := by
  simp only [validSet, inSet_or, Bool.or_eq_true, inSet_dataSet, inSet_ctrlSet, IsData, IsControl]

/-- `dataReverse` answers a byte exactly when the codeword is in DATA. -/
theorem dataReverse_isSome (pol : BalPolarity) (c : Codeword) :
    (dataReverse pol c).isSome = true ↔ inSet c (dataSet pol) = true := by
  rw [inSet_dataSet, dataReverse, List.find?_isSome]
  simp only [List.contains_iff_mem]
  exact ⟨fun ⟨d, _, h⟩ => ⟨d, h⟩, fun ⟨d, h⟩ => ⟨d, mem_allBytes d, h⟩⟩

/-- `dataReverse` answers only a byte that has the codeword among its candidates. -/
theorem mem_of_dataReverse {pol : BalPolarity} {c : Codeword} {d : Byte} (h : dataReverse pol c = some d) :
    c ∈ encodeByte pol d := by
  have := List.find?_some h
  simpa using this

end Sys2Proof.Machine
end

