-- ==== Sys2Proof/Laws/Decode.lean ====
section
/-! SUPPORT. The fields of an assembled request word and of an assembled codeword, and what each answer of `classify`
means: the small lemmas the encoding statements rest on. -/

namespace Sys2Proof.Machine

/-! ### Request words -/

@[simp] theorem opField_requestWord (op aux : Nibble) (b a : Field) : opField (requestWord op aux b a) = op :=
  Laws.OpCode.opField_requestWord op aux b a

@[simp] theorem auxField_requestWord (op aux : Nibble) (b a : Field) : auxField (requestWord op aux b a) = aux := by
  have h1 := op.isLt
  have h2 := aux.isLt
  have h3 := b.isLt
  have h4 := a.isLt
  apply BitVec.eq_of_toNat_eq
  simp only [auxField, requestWord, BitVec.toNat_ofNat]
  omega

@[simp] theorem bField_requestWord (op aux : Nibble) (b a : Field) : bField (requestWord op aux b a) = b := by
  have h1 := op.isLt
  have h2 := aux.isLt
  have h3 := b.isLt
  have h4 := a.isLt
  apply BitVec.eq_of_toNat_eq
  simp only [bField, requestWord, BitVec.toNat_ofNat]
  omega

@[simp] theorem aField_requestWord (op aux : Nibble) (b a : Field) : aField (requestWord op aux b a) = a := by
  have h1 := op.isLt
  have h2 := aux.isLt
  have h3 := b.isLt
  have h4 := a.isLt
  apply BitVec.eq_of_toNat_eq
  simp only [aField, requestWord, BitVec.toNat_ofNat]
  omega

/-! ### Codewords -/

@[simp] theorem payloadOf_joinCodeword (p : Byte) (x i : Bool) : payloadOf (joinCodeword p x i) = p := by
  revert p x i
  decide +kernel

@[simp] theorem bitX_joinCodeword (p : Byte) (x i : Bool) : bitX (joinCodeword p x i) = x := by
  revert p x i
  decide +kernel

@[simp] theorem bitI_joinCodeword (p : Byte) (x i : Bool) : bitI (joinCodeword p x i) = i := by
  revert p x i
  decide +kernel

/-! ### Classification -/

theorem classify_eq_data {cfg : Config} {c : Codeword} {d : Byte} :
    classify cfg c = .data d ↔ romDataRev cfg c = some d := by
  unfold classify
  cases h : romDataRev cfg c with
  | some e => simp
  | none => cases romCtrlRev cfg c <;> simp

theorem classify_eq_control {cfg : Config} {c : Codeword} {c0 c1 : Bool} :
    classify cfg c = .control c0 c1 ↔ romDataRev cfg c = none ∧ romCtrlRev cfg c = some (c0, c1) := by
  unfold classify
  cases h : romDataRev cfg c with
  | some e => simp
  | none => cases romCtrlRev cfg c <;> simp [Prod.ext_iff]

theorem classify_eq_forbidden {cfg : Config} {c : Codeword} :
    classify cfg c = .forbidden ↔ romDataRev cfg c = none ∧ romCtrlRev cfg c = none := by
  unfold classify
  cases h : romDataRev cfg c with
  | some e => simp
  | none => cases romCtrlRev cfg c <;> simp

/-- `ctrlReverse` answers only a pair whose codeword is the one asked for. -/
theorem ctrlForward_of_ctrlReverse {t : CtrlTable} {c : Codeword} {c0 c1 : Bool} (h : ctrlReverse t c = some (c0, c1)) :
    ctrlForward t c0 c1 = c := by
  have := List.find?_some h
  simpa using this

end Sys2Proof.Machine
end

