-- ==== Sys2Proof/Laws/State.lean ====
section
/-! SUPPORT. One lemma per field per update of the state and of the response record, true by `rfl`. -/

namespace Sys2Proof.Machine

variable (s : State) (r body : Response) (c : Cause) (w : RequestWord) (u : HostInput) (cfg : Config)

@[simp] theorem emit_config : (emit r s).config = s.config := rfl
@[simp] theorem emit_fsr : (emit r s).fsr = s.fsr := rfl
@[simp] theorem emit_freq : (emit r s).freq = s.freq := rfl
@[simp] theorem emit_pending : (emit r s).pending = s.pending := rfl
@[simp] theorem emit_responses : (emit r s).responses = r :: s.responses := rfl

@[simp] theorem answerOk_config : (answerOk body s).config = s.config := rfl
@[simp] theorem answerOk_fsr : (answerOk body s).fsr = s.fsr := rfl
@[simp] theorem answerOk_freq : (answerOk body s).freq = s.freq := rfl
@[simp] theorem answerOk_pending : (answerOk body s).pending = s.pending := rfl
@[simp] theorem answerOk_responses : (answerOk body s).responses = okResponse body s :: s.responses := rfl

@[simp] theorem answerFaulted_config : (answerFaulted s).config = s.config := rfl
@[simp] theorem answerFaulted_fsr : (answerFaulted s).fsr = s.fsr := rfl
@[simp] theorem answerFaulted_freq : (answerFaulted s).freq = s.freq := rfl
@[simp] theorem answerFaulted_pending : (answerFaulted s).pending = s.pending := rfl
@[simp] theorem answerFaulted_responses : (answerFaulted s).responses = faultResponse s :: s.responses := rfl

@[simp] theorem raiseFault_config : (raiseFault c w s).config = s.config := rfl
@[simp] theorem raiseFault_fsr : (raiseFault c w s).fsr = faultedFsr c := rfl
@[simp] theorem raiseFault_freq : (raiseFault c w s).freq = w := rfl
@[simp] theorem raiseFault_pending : (raiseFault c w s).pending = s.pending := rfl
@[simp] theorem raiseFault_responses :
    (raiseFault c w s).responses =
      { Response.blank with status := 1, fsr := faultedFsr c, freq := w } :: s.responses := rfl

@[simp] theorem applyReset_config : (applyReset s).config = s.config := by simp only [applyReset]
@[simp] theorem applyReset_fsr : (applyReset s).fsr = resetFsr s.config := by simp only [applyReset]
@[simp] theorem applyReset_freq : (applyReset s).freq = 0 := by simp only [applyReset]
@[simp] theorem applyReset_pending : (applyReset s).pending = s.pending := by simp only [applyReset]
@[simp] theorem applyReset_responses : (applyReset s).responses = s.responses := by simp only [applyReset]

@[simp] theorem presentInput_config : (presentInput u s).config = s.config := rfl
@[simp] theorem presentInput_fsr : (presentInput u s).fsr = s.fsr := rfl
@[simp] theorem presentInput_freq : (presentInput u s).freq = s.freq := rfl
@[simp] theorem presentInput_pending : (presentInput u s).pending = u :: s.pending := rfl
@[simp] theorem presentInput_responses : (presentInput u s).responses = s.responses := rfl

@[simp] theorem resetWith_config : (State.resetWith cfg).config = cfg := by simp only [State.resetWith]
@[simp] theorem resetWith_fsr : (State.resetWith cfg).fsr = resetFsr cfg := by simp only [State.resetWith]
@[simp] theorem resetWith_freq : (State.resetWith cfg).freq = 0 := by simp only [State.resetWith]
@[simp] theorem resetWith_pending : (State.resetWith cfg).pending = [] := by simp only [State.resetWith]
@[simp] theorem resetWith_responses : (State.resetWith cfg).responses = [] := by simp only [State.resetWith]

@[simp] theorem okResponse_status : (okResponse body s).status = 0 := rfl
@[simp] theorem okResponse_fsr : (okResponse body s).fsr = s.fsr := rfl
@[simp] theorem okResponse_freq : (okResponse body s).freq = s.freq := rfl

@[simp] theorem faultResponse_status : (faultResponse s).status = 1 := rfl
@[simp] theorem faultResponse_fsr : (faultResponse s).fsr = s.fsr := rfl
@[simp] theorem faultResponse_freq : (faultResponse s).freq = s.freq := rfl

/-- The faulted `FSR` has `F = 1`. -/
@[simp] theorem fsrF_faultedFsr : fsrF (faultedFsr c) = true := by cases c <;> decide

/-- The faulted `FSR` holds the code of its cause. -/
@[simp] theorem fsrCause_faultedFsr : fsrCause (faultedFsr c) = causeCode c := by cases c <;> decide

end Sys2Proof.Machine
end

