-- ==== Sys2Proof/Laws/Ops.lean ====
section
/-! SUPPORT. What each shared operation can do, said once: the step with a request, the operand forms, the nearest-codeword
search, and each instruction as `serve` of its request word and its result. -/

namespace Sys2Proof.Machine

/-! ### The step with a request -/

theorem serve_of_faulted {req : RequestWord} {res : Except Cause Response} {s : State} (h : faulted s = true) :
    serve req res s = .next (answerFaulted s) := by
  simp [serve, h]

theorem serve_of_error {req : RequestWord} {c : Cause} {s : State} (h : faulted s = false) :
    serve req (.error c) s = .next (raiseFault c req s) := by
  simp [serve, h]

theorem serve_of_ok {req : RequestWord} {body : Response} {s : State} (h : faulted s = false) :
    serve req (.ok body) s = .next (answerOk body s) := by
  simp [serve, h]

/-- Everything `serve` can do: it always answers a next state, one of these three. -/
theorem serve_cases (req : RequestWord) (res : Except Cause Response) (s : State) :
    (faulted s = true ∧ serve req res s = .next (answerFaulted s)) ∨
    (faulted s = false ∧ ∃ c, res = .error c ∧ serve req res s = .next (raiseFault c req s)) ∨
    (faulted s = false ∧ ∃ body, res = .ok body ∧ serve req res s = .next (answerOk body s)) := by
  cases h : faulted s with
  | true => exact .inl ⟨rfl, serve_of_faulted h⟩
  | false =>
    cases res with
    | error c => exact .inr (.inl ⟨rfl, c, rfl, serve_of_error h⟩)
    | ok body => exact .inr (.inr ⟨rfl, body, rfl, serve_of_ok h⟩)

/-! ### The instructions as requests -/

/-- The result of an instruction before the fault latch is looked at. -/
def resultOf (cfg : Config) : Instr → Except Cause Response
  | .enc aux b a => encResult cfg aux b a
  | .ctl aux b a => ctlResult cfg aux b a
  | .cls aux b a => clsResult cfg aux b a
  | .ham aux b a => hamResult aux b a
  | .nvs aux b a => nvsResult cfg aux b a
  | .fcl aux b a => fclResult cfg aux b a
  | .rob aux b a => robResult cfg aux b a
  | .cnt aux b a => cntResult cfg aux b a
  | .reserved0 _ _ _ => reservedResult
  | .reserved9 _ _ _ => reservedResult
  | .reservedA _ _ _ => reservedResult
  | .reservedB _ _ _ => reservedResult
  | .reservedC _ _ _ => reservedResult
  | .reservedD _ _ _ => reservedResult
  | .reservedE _ _ _ => reservedResult
  | .reservedF _ _ _ => reservedResult
  | .dataDirect x payload => .ok (symbolBody (classify cfg (joinCodeword payload x false)))
  | .dataInverted x payload => .ok (symbolBody (classify cfg (joinCodeword payload x true)))
  | .ctrl00 => .ok (symbolBody (classify cfg (ctrlForward cfg.ctrlTable false false)))
  | .ctrl10 => .ok (symbolBody (classify cfg (ctrlForward cfg.ctrlTable true false)))
  | .ctrl01 => .ok (symbolBody (classify cfg (ctrlForward cfg.ctrlTable false true)))
  | .ctrl11 => .ok (symbolBody (classify cfg (ctrlForward cfg.ctrlTable true true)))
  | .forbidden v => .ok (symbolBody (classify cfg v))

/-- Every instruction is `serve` of its request word and its result. -/
theorem exec_eq_serve (i : Instr) (s : State) : exec i s = serve (requestOf s.config i) (resultOf s.config i) s := by
  cases i <;> rfl

/-- Everything `exec` can do. -/
theorem exec_cases (i : Instr) (s : State) :
    (faulted s = true ∧ exec i s = .next (answerFaulted s)) ∨
    (faulted s = false ∧ ∃ c, resultOf s.config i = .error c ∧
      exec i s = .next (raiseFault c (requestOf s.config i) s)) ∨
    (faulted s = false ∧ ∃ body, resultOf s.config i = .ok body ∧ exec i s = .next (answerOk body s)) := by
  rw [exec_eq_serve]
  exact serve_cases _ _ _

/-! ### The operand forms -/

/-- `fitted` in numbers: a field that fits keeps its value, one that does not names the cause. -/
theorem fitted_eq (n : Nat) (cause : Cause) (f : Field) :
    fitted n cause f = if f.toNat < 2 ^ n then .ok (BitVec.ofNat n f.toNat) else .error cause := by
  have hp : ((2 : Int) ^ n) = ((2 ^ n : Nat) : Int) := by push_cast; rfl
  unfold fitted fromInteger
  by_cases h : f.toNat < 2 ^ n
  · have h' : (0 : Int) ≤ (f.toNat : Int) ∧ (f.toNat : Int) < 2 ^ n := ⟨by omega, by rw [hp]; omega⟩
    rw [if_pos h', if_pos h]
    rfl
  · have h' : ¬ ((0 : Int) ≤ (f.toNat : Int) ∧ (f.toNat : Int) < 2 ^ n) := by rw [hp]; omega
    rw [if_neg h', if_neg h]

theorem byteOperand_eq (a : Field) :
    byteOperand a = if a.toNat ≤ 255 then .ok (BitVec.ofNat 8 a.toNat) else .error .byteRange := by
  rw [byteOperand, fitted_eq]
  have : a.toNat < 2 ^ 8 ↔ a.toNat ≤ 255 := by omega
  simp only [this]

theorem codewordOperand_eq (a : Field) :
    codewordOperand a = if a.toNat ≤ 1023 then .ok (BitVec.ofNat 10 a.toNat) else .error .cwWidth := by
  rw [codewordOperand, fitted_eq]
  have : a.toNat < 2 ^ 10 ↔ a.toNat ≤ 1023 := by omega
  simp only [this]

theorem pairOperand_eq (a : Field) :
    pairOperand a = if a.toNat ≤ 3 then .ok (BitVec.ofNat 2 a.toNat) else .error .ctrlPair := by
  rw [pairOperand, fitted_eq]
  have : a.toNat < 2 ^ 2 ↔ a.toNat ≤ 3 := by omega
  simp only [this]

theorem unusedField_eq (f : Field) : unusedField f = if f = 0 then .ok () else .error .badAux := rfl

theorem unusedAux_eq (aux : Nibble) : unusedAux aux = if aux = 0 then .ok () else .error .badAux := rfl

theorem selectorOperand_eq (aux : Nibble) :
    selectorOperand aux = if aux = 0 ∨ aux.toNat > 3 then .error .badAux else .ok aux := rfl

theorem rotationOperand_eq (aux : Nibble) :
    rotationOperand aux = if aux.toNat > 9 then .error .badAux else .ok aux.toNat := rfl

/-- A check that passes hands its value on. -/
theorem ok_bind {α β : Type} (v : α) (f : α → Except Cause β) : (Except.ok v >>= f) = f v := rfl

/-- The first check that fails ends the operation (R130). -/
theorem error_bind {α β : Type} (c : Cause) (f : α → Except Cause β) : ((Except.error c : Except Cause α) >>= f) = .error c :=
  rfl

/-! ### One step of a run -/

/-- A run of `k + 1` steps whose first step answers a next state goes on from it. -/
theorem run_succ {k : Nat} {s t : State} (h : step s = .next t) :
    Host.Core.run Sys2Proof.core (k + 1) s = Host.Core.run Sys2Proof.core k t := by
  have h' : Sys2Proof.core.step s = .next t := h
  refine (Host.Core.run.eq_2 Sys2Proof.core s k).trans ?_
  rw [h']

/-- Reset taken from the head of what the host presents. -/
theorem step_of_reset {s : State} {rest : List HostInput} (h : s.pending = .reset :: rest) :
    step s = .next (applyReset { s with pending := rest }) := by
  unfold step takeStep
  rw [h]
  rfl

/-! ### The nearest-codeword search -/

/-- `searchNearest` answers what `nearestValid` gives. -/
theorem searchNearest_of_some {c : Codeword} {s : CodewordSet} {r : Nat × CodewordSet}
    (h : nearestValid c s = some r) : searchNearest c s = .ok r := by
  unfold searchNearest
  rw [h]

end Sys2Proof.Machine
end

