-- ==== Sys2Proof/Tests/Slice0.lean ====
section
/-! SUPPORT. Tests, each a named theorem: ill-formed terms that the checks refuse, words written out from the spec's
encodings, the spec's own examples run for one step, and for every statement with hypotheses a witness that meets them.
Expected values come from the spec: the rule or table is named beside each. -/

namespace Sys2Proof.Tests

open Sys2Proof.Machine

/-! ### Helpers -/

/-- The response to a word presented to the core right after reset. -/
def answerTo (nbits w : Nat) : Option Response :=
  match step (State.reset.withFetchWord nbits w) with
  | .next t => t.responses.head?
  | .fault _ => none
  | .refused _ => none

/-- Distance, class, size and elements of the set of a response. -/
def setPart (r : Response) : BitVec 4 × BitVec 2 × BitVec 11 × List Codeword := (r.dist, r.fclass, r.n, members r.set)

/-- `FSR` and `FREQ` after one step, and the response. -/
def latchAfter (s : State) : Option (BitVec 4 × BitVec 32 × Option Response) :=
  match step s with
  | .next t => some (t.fsr, t.freq, t.responses.head?)
  | .fault _ => none
  | .refused _ => none

/-- A table in which `(0, 0)` has the codeword of `(0, 1)`: the build fails on it (R94). -/
def clashing : Config := { Config.default with ctrlTable := { CtrlTable.default with cw00 := 0x154 } }

/-- A table in which every control codeword is a data codeword, that of the byte 0x10 (R94). -/
def aliased : Config := { Config.default with ctrlTable := { cw00 := 0x1F0, cw10 := 0x1F0, cw01 := 0x1F0, cw11 := 0x1F0 } }

/-- A core that has taken `BYTE_RANGE` on `ENC` of 256, with a request, a codeword and a reset still to come. -/
def faultedState : State :=
  { State.reset with fsr := 7, freq := 0x10000100, pending := [.request 0x10000010, .codeword 0x1F0, .reset] }

/-- A core about to be reset out of that fault. -/
def aboutToReset : State := { faultedState with pending := [.reset, .request 0x10000010] }

/-- A core to which three legal requests and a fourth input are presented. -/
def busyState : State :=
  { State.reset with pending := [.request 0x10000010, .request 0x20000001, .request 0x40154354, .codeword 0x1F0] }

/-! ### Ill-formed terms -/

/-- One ill-formed term for each check of `wellFormed`: 0x153 and 0x2A9 are no data codewords; the two tables give their
codewords to another format; 0x1F0 is a data codeword. -/
theorem test_wf_refused : wellFormed Config.default (.dataDirect true 0x53) = false ∧
    wellFormed Config.default (.dataInverted false 0xA9) = false ∧ wellFormed aliased .ctrl00 = false ∧
    wellFormed aliased .ctrl10 = false ∧ wellFormed clashing .ctrl01 = false ∧ wellFormed aliased .ctrl11 = false ∧
    wellFormed Config.default (.forbidden 0x1F0) = false := by decide +kernel

/- The legal ranges of R47, each at its bound and one past it. -/
theorem test_legal_enc : operandsLegal (.enc 0 0 255) = true ∧ operandsLegal (.enc 0 0 256) = false ∧
    operandsLegal (.enc 0 1 255) = false ∧ operandsLegal (.enc 1 0 255) = false := by decide
theorem test_legal_ctl : operandsLegal (.ctl 0 0 3) = true ∧ operandsLegal (.ctl 0 0 4) = false ∧
    operandsLegal (.ctl 0 1 3) = false ∧ operandsLegal (.ctl 1 0 3) = false := by decide
theorem test_legal_cls : operandsLegal (.cls 0 0 1023) = true ∧ operandsLegal (.cls 0 0 1024) = false ∧
    operandsLegal (.cls 0 1 1023) = false ∧ operandsLegal (.cls 1 0 1023) = false := by decide
theorem test_legal_ham : operandsLegal (.ham 0 1023 1023) = true ∧ operandsLegal (.ham 0 0 1024) = false ∧
    operandsLegal (.ham 0 1024 0) = false ∧ operandsLegal (.ham 1 0 0) = false := by decide
theorem test_legal_nvs : operandsLegal (.nvs 1 0 1023) = true ∧ operandsLegal (.nvs 3 0 1023) = true ∧
    operandsLegal (.nvs 1 0 1024) = false ∧ operandsLegal (.nvs 1 1 0) = false ∧ operandsLegal (.nvs 0 0 0) = false ∧
    operandsLegal (.nvs 4 0 0) = false := by decide
theorem test_legal_fcl : operandsLegal (.fcl 0 0 1023) = true ∧ operandsLegal (.fcl 0 0 1024) = false ∧
    operandsLegal (.fcl 0 1 0) = false ∧ operandsLegal (.fcl 1 0 0) = false := by decide
theorem test_legal_rob : operandsLegal (.rob 9 0 3) = true ∧ operandsLegal (.rob 9 0 4) = false ∧
    operandsLegal (.rob 9 1 3) = false ∧ operandsLegal (.rob 10 0 3) = false := by decide
theorem test_legal_cnt : operandsLegal (.cnt 0 0 0) = true ∧ operandsLegal (.cnt 0 0 1) = false ∧
    operandsLegal (.cnt 0 1 0) = false ∧ operandsLegal (.cnt 1 0 0) = false := by decide
theorem test_legal_reserved : [Instr.reserved0 0 0 0, .reserved9 0 0 0, .reservedA 0 0 0, .reservedB 0 0 0, .reservedC 0 0 0,
    .reservedD 0 0 0, .reservedE 0 0 0, .reservedF 0 0 0].all (fun i => !operandsLegal i) = true := by decide

/-! ### Words written out from the encodings (R43, R45, R46): `op`, `aux`, `b`, `a` -/

/-- The operations, on the request words of the spec's examples. -/
theorem test_decode_operations :
    decodeTableWord 32 0b0001_0000_000000000000_000000010000 = some (.enc 0 0 0x010) ∧
    decodeTableWord 32 0b0010_0000_000000000000_000000000001 = some (.ctl 0 0 1) ∧
    decodeTableWord 32 0b0011_0000_000000000000_000111110000 = some (.cls 0 0 0x1F0) ∧
    decodeTableWord 32 0b0100_0000_000101010100_001101010100 = some (.ham 0 0x154 0x354) ∧
    decodeTableWord 32 0b0101_0011_000000000000_001010101001 = some (.nvs 3 0 0x2A9) ∧
    decodeTableWord 32 0b0110_0000_000000000000_001010101001 = some (.fcl 0 0 0x2A9) ∧
    decodeTableWord 32 0b0111_0010_000000000000_000000000000 = some (.rob 2 0 0) ∧
    decodeTableWord 32 0b1000_0000_000000000000_000000000000 = some (.cnt 0 0 0) := by decide

/-- The reserved operation codes, with `aux = 1`, `b = 2`, `a = 3`. -/
theorem test_decode_reserved :
    decodeTableWord 32 0b0000_0001_000000000010_000000000011 = some (.reserved0 1 2 3) ∧
    decodeTableWord 32 0b1001_0001_000000000010_000000000011 = some (.reserved9 1 2 3) ∧
    decodeTableWord 32 0b1010_0001_000000000010_000000000011 = some (.reservedA 1 2 3) ∧
    decodeTableWord 32 0b1011_0001_000000000010_000000000011 = some (.reservedB 1 2 3) ∧
    decodeTableWord 32 0b1100_0001_000000000010_000000000011 = some (.reservedC 1 2 3) ∧
    decodeTableWord 32 0b1101_0001_000000000010_000000000011 = some (.reservedD 1 2 3) ∧
    decodeTableWord 32 0b1110_0001_000000000010_000000000011 = some (.reservedE 1 2 3) ∧
    decodeTableWord 32 0b1111_0001_000000000010_000000000011 = some (.reservedF 1 2 3) := by decide

/-- `I`, `X`, payload: the bytes 0x10 and 0xEF of the source's examples (R79). -/
theorem test_decode_data : decodeTableWord 16 0b0_1_11110000 = some (.dataDirect true 0xF0) ∧
    decodeTableWord 16 0b1_0_11110000 = some (.dataInverted false 0xF0) := by decide +kernel

/-- The default control codewords (R43, R89), and a forbidden codeword (R101). -/
theorem test_decode_other_codewords : decodeTableWord 16 0b1101010100 = some .ctrl00 ∧
    decodeTableWord 16 0b0010101011 = some .ctrl10 ∧ decodeTableWord 16 0b0101010100 = some .ctrl01 ∧
    decodeTableWord 16 0b1010101011 = some .ctrl11 ∧ decodeTableWord 16 0b1010101001 = some (.forbidden 0x2A9) := by
  decide +kernel

/-- Numbers that are no word of the core are refused by name. -/
theorem test_decode_refused :
    (match inputOfBits 16 1024 with | .error e => e == .codewordTooWide | .ok _ => false) = true ∧
    (match inputOfBits 32 4294967296 with | .error e => e == .requestTooWide | .ok _ => false) = true ∧
    (match inputOfBits 40 0 with | .error e => e == .noSuchWidth | .ok _ => false) = true := by decide

/-! ### The spec's examples, one step each, from reset -/

/-- R83: `ENC 0x10`; `ENC 0x00` has two candidates. -/
theorem test_enc : answerTo 32 0x10000010 = some { Response.blank with n := 1, cw0 := 0x1F0 } ∧
    answerTo 32 0x10000000 = some { Response.blank with n := 2, cw0 := 0x100, cw1 := 0x3FF } := by decide +kernel

/-- R91: `CTL 1, 0`; R89: the codeword of `(0, 1)`. -/
theorem test_ctl : answerTo 32 0x20000001 = some { Response.blank with cw0 := 0x0AB } ∧
    answerTo 32 0x20000002 = some { Response.blank with cw0 := 0x154 } := by decide +kernel

/-- R101: `CLS 0x2F0` is `Data(0xEF)`; `CLS 0x0AB` is `Control(1, 0)`. -/
theorem test_cls : answerTo 32 0x300002F0 = some { Response.blank with tag := 1, payload := 0xEF } ∧
    answerTo 32 0x300000AB = some { Response.blank with tag := 2, payload := 1 } := by decide +kernel

/-- R72: `HAM 0x354, 0x154`; R70: 0x354 against 0x0AB. -/
theorem test_ham : answerTo 32 0x40154354 = some { Response.blank with dist := 1 } ∧
    answerTo 32 0x400AB354 = some { Response.blank with dist := 10 } := by decide +kernel

/-- R114: `NVS 0x2A9, DATA`; `NVS 0x1F0, CTRL`. -/
theorem test_nvs : (answerTo 32 0x510002A9).map setPart =
      some (2, 0, 10, [0x209, 0x221, 0x239, 0x281, 0x288, 0x2A0, 0x2B8, 0x2E1, 0x2E8, 0x2F9]) ∧
    (answerTo 32 0x520001F0).map setPart = some (3, 0, 1, [0x154]) := by decide +kernel

/-- R117: `FCL 0x153` is ambiguous, `FCL 0x1AA` genuine at distance 2. -/
theorem test_fcl : (answerTo 32 0x60000153).map setPart = some (1, 2, 3, [0x113, 0x143, 0x173]) ∧
    (answerTo 32 0x600001AA).map (fun r => (r.fclass, r.dist)) = some (3, 2) := by decide +kernel

/-- R119: `ROB 0, 0, 2`; R123: `(0, 1)` rotated once is at distance 1. -/
theorem test_rob : (answerTo 32 0x72000000).map (fun r => (r.cw0, setPart r)) =
      some (0x153, 1, 0, 3, [0x113, 0x143, 0x173]) ∧
    (answerTo 32 0x71000002).map (fun r => (r.cw0, r.dist)) = some (0x2A8, 1) := by decide +kernel

/-- R104, R106: `CNT`. -/
theorem test_cnt : answerTo 32 0x80000000 = some { Response.blank with n := 460, n2 := 4, n3 := 560 } := by
  decide +kernel

/-- R48, R126, R128: `ILLEGAL_OP` is cause 2, so `FSR` is 5, and the whole word is recorded; R130: the example of a request
that breaks three checks reports `BYTE_RANGE`, cause 3. -/
theorem test_faults : [0x00000000, 0x01002003, 0x90000000, 0xA0000000, 0xB0000000, 0xC0000000, 0xD0000000, 0xE0000000,
      0xFFFFFFFF].all (fun w => answerTo 32 w == some { Response.blank with
        status := 1, fsr := 5, freq := BitVec.ofNat 32 w }) = true ∧
    answerTo 32 0x1F001100 = some { Response.blank with status := 1, fsr := 7, freq := 0x1F001100 } := by decide +kernel

/-- R43, R101: bare codewords, one of each format. -/
theorem test_bare_codewords : answerTo 16 0x1F0 = some { Response.blank with tag := 1, payload := 0x10 } ∧
    answerTo 16 0x2F0 = some { Response.blank with tag := 1, payload := 0xEF } ∧
    answerTo 16 0x354 = some { Response.blank with tag := 2, payload := 0 } ∧
    answerTo 16 0x0AB = some { Response.blank with tag := 2, payload := 1 } ∧
    answerTo 16 0x154 = some { Response.blank with tag := 2, payload := 2 } ∧
    answerTo 16 0x2AB = some { Response.blank with tag := 2, payload := 3 } ∧
    answerTo 16 0x2A9 = some Response.blank := by decide +kernel

/-- R129: the faulted core answers with the first fault; R144: reset clears it; R146: a configuration whose build fails is
faulted right after reset. -/
theorem test_latch : latchAfter faultedState =
      some (7, 0x10000100, some { Response.blank with status := 1, fsr := 7, freq := 0x10000100 }) ∧
    latchAfter aboutToReset = some (0, 0, none) ∧
    (State.resetWith clashing).fsr = 3 ∧ (State.resetWith aliased).fsr = 3 := by decide +kernel

/-- D8, R79: under `ALWAYS_DIRECT` the balanced byte 0xEF has the direct codeword. -/
theorem test_always_direct : encodeByte .alwaysDirect 0xEF = [0x00F] ∧ encodeByte .followX 0xEF = [0x2F0] := by decide

/-! ### Witnesses: the hypotheses of each statement can be met, clause by clause -/

theorem witness_DecodeEncodeAgree : wellFormed Config.default (.enc 0xF 0xFFF 0xFFF) = true ∧
    wellFormed Config.default (.dataDirect true 0xF0) = true ∧ wellFormed Config.default (.dataInverted false 0xF0) = true ∧
    wellFormed Config.default .ctrl00 = true ∧ wellFormed Config.default .ctrl10 = true ∧
    wellFormed Config.default .ctrl01 = true ∧ wellFormed Config.default .ctrl11 = true ∧
    wellFormed Config.default (.forbidden 0x2A9) = true := by decide +kernel

theorem witness_EncodeDecodeAgree : HostInput.request 0xFFFFFFFF ≠ .reset ∧ HostInput.codeword 0x3FF ≠ .reset := by decide

/-- `CodewordFormats`, `PartitionLaw`, `ClassifyRoundTrip`, `BuildFillsTheTables`: a configuration whose build succeeds, and
with it each format. -/
theorem witness_default_builds : buildSucceeds Config.default = true ∧
    buildSucceeds { Config.default with balPolarity := .alwaysDirect } = true := by decide +kernel

theorem witness_CodewordFormats : classify Config.default 0x1F0 = .data 0x10 ∧ classify Config.default 0x2F0 = .data 0xEF ∧
    classify Config.default 0x354 = .control false false ∧ classify Config.default 0x2A9 = .forbidden := by decide +kernel

theorem witness_StepRunsDecodedInstruction :
    busyState.pending = .request 0x10000010 :: [.request 0x20000001, .request 0x40154354, .codeword 0x1F0] ∧
    decodeInput busyState.config (.request 0x10000010) = some (.enc 0 0 0x010) := by decide

/-- `ResetTakesTheResetState`, `ResetIsIdempotent`, `FailedBuildServesNothing`: a reset input, and both branches. -/
theorem witness_reset : aboutToReset.pending = .reset :: [.request 0x10000010] ∧
    buildSucceeds aboutToReset.config = true ∧ buildSucceeds clashing = false ∧
    State.reset.fsr = (State.resetWith State.reset.config).fsr ∧ State.reset.freq = (State.resetWith State.reset.config).freq := by
  decide +kernel

theorem witness_IdleStepHoldsState : State.reset.pending = [] := by decide

/-- `FaultedStateIsAbsorbing`: a faulted state with an input that is no reset, and one that a step leaves. -/
theorem witness_FaultedStateIsAbsorbing : fsrF faultedState.fsr = true ∧
    faultedState.pending = .request 0x10000010 :: [.codeword 0x1F0, .reset] ∧ HostInput.request 0x10000010 ≠ .reset ∧
    fsrF aboutToReset.fsr = true ∧ (latchAfter aboutToReset).map (fun r => fsrF r.1) = some false := by decide +kernel

/-- Every statement about an unfaulted core: the reset state is one. -/
theorem witness_unfaulted : fsrF State.reset.fsr = false ∧ fsrF busyState.fsr = false := by decide

theorem witness_FirstFailedCheckIsReported : firstBrokenCheck (.enc 0xF 1 256) = some .byteRange ∧
    firstBrokenCheck (.enc 0 1 255) = some .badAux ∧ firstBrokenCheck (.ctl 0 0 4) = some .ctrlPair ∧
    firstBrokenCheck (.ham 1 1024 1023) = some .cwWidth ∧ firstBrokenCheck (.nvs 0 0 1023) = some .badAux ∧
    firstBrokenCheck (.rob 10 0 3) = some .badAux ∧ firstBrokenCheck (.cnt 0 0 1) = some .badAux ∧
    firstBrokenCheck (.reserved9 0 0 0) = some .illegalOp ∧ firstBrokenCheck (.enc 0 0 255) = none ∧
    firstBrokenCheck (.nvs 3 0 1023) = none ∧ firstBrokenCheck (.rob 9 0 3) = none ∧ firstBrokenCheck .ctrl00 = none := by
  decide

theorem witness_OnlyFaultsAndResetWriteTheLatch :
    latchAfter (State.reset.withFetchWord 32 0x10000100) =
      some (7, 0x10000100, some { Response.blank with status := 1, fsr := 7, freq := 0x10000100 }) ∧
    latchAfter aboutToReset = some (0, 0, none) := by decide +kernel

/-- The reset state with requests presented has the invariant. -/
theorem witness_invariant_busy : StateInvariant busyState :=
  ⟨by decide, by decide, fun _ => rfl, fun _ => rfl, by decide +kernel, by intro r h; simp [busyState, State.reset] at h⟩

/-- The reset state has the invariant. -/
theorem witness_invariant_reset : StateInvariant State.reset :=
  ⟨by decide, by decide, fun _ => rfl, fun _ => rfl, by decide +kernel, by intro r h; simp [State.reset] at h⟩

/-- A faulted state that has the invariant. -/
theorem witness_invariant_faulted : StateInvariant faultedState :=
  ⟨by decide, by decide, by decide, by decide, by decide +kernel, by intro r h; simp [faultedState, State.reset] at h⟩

/-- The hypotheses of `StepKeepsInvariant` together: an unfaulted and a faulted state that have it and step on. -/
theorem witness_StepKeepsInvariant : StateInvariant busyState ∧ (latchAfter busyState).isSome = true ∧
    StateInvariant faultedState ∧ (latchAfter faultedState).isSome = true :=
  ⟨witness_invariant_busy, by decide +kernel, witness_invariant_faulted, by decide +kernel⟩

/-- The hypotheses of `ResponseDependsOnRequestAlone` together: two states that differ in what is presented. -/
theorem witness_ResponseDependsOnRequestAlone : StateInvariant busyState ∧ StateInvariant State.reset ∧
    busyState.config = State.reset.config ∧ fsrF busyState.fsr = false ∧ fsrF State.reset.fsr = false :=
  ⟨witness_invariant_busy, witness_invariant_reset, rfl, by decide, by decide⟩

/-- The hypotheses of `LegalRequestsAnswerIndependently` together. -/
theorem witness_LegalRequestsAnswerIndependently : StateInvariant busyState ∧ fsrF busyState.fsr = false ∧
    (∀ w ∈ ([0x10000010, 0x20000001, 0x40154354] : List RequestWord), operandsLegal (decodeRequest w) = true) ∧
    busyState.pending = ([0x10000010, 0x20000001, 0x40154354] : List RequestWord).map .request ++ [.codeword 0x1F0] :=
  ⟨witness_invariant_busy, by decide, List.all_eq_true.1 (by decide), rfl⟩

/-- The clauses of `ENC`, `CTL`, `CLS`, `HAM`, `FCL`, `CNT` at the bounds of their ranges. -/
theorem witness_operand_clauses : fsrF State.reset.fsr = false ∧ (256 : Field).toNat > 255 ∧ (255 : Field).toNat ≤ 255 ∧ (4 : Field).toNat > 3 ∧
    (3 : Field).toNat ≤ 3 ∧ (1024 : Field).toNat > 1023 ∧ (1023 : Field).toNat ≤ 1023 ∧ (1 : Field) ≠ 0 ∧
    (1 : Nibble) ≠ 0 := by decide

/-- The clauses of `CLS` on each symbol. -/
theorem witness_ClsAnswersSymbol : fsrF State.reset.fsr = false ∧
    classify State.reset.config (BitVec.ofNat 10 (0x3FF : Field).toNat) = .data 0 ∧
    classify State.reset.config (BitVec.ofNat 10 (0x0AB : Field).toNat) = .control true false ∧
    classify State.reset.config (BitVec.ofNat 10 (0x2A9 : Field).toNat) = .forbidden := by decide +kernel

/-- The clauses of `NVS` and `ROB` on `aux`. -/
theorem witness_aux_clauses : fsrF State.reset.fsr = false ∧ (1 : Nibble) ≠ 0 ∧ (3 : Nibble).toNat ≤ 3 ∧ (4 : Nibble).toNat > 3 ∧ (9 : Nibble).toNat ≤ 9 ∧
    (10 : Nibble).toNat > 9 := by decide

theorem witness_CodewordFormatsAnswerSymbols : fsrF State.reset.fsr = false ∧ buildSucceeds State.reset.config = true ∧
    directCodeword (baseWord 0x10) (flagX 0x10) ∈ encodeByte State.reset.config.balPolarity 0x10 ∧
    invertedCodeword (baseWord 0xEF) (flagX 0xEF) ∈ encodeByte State.reset.config.balPolarity 0xEF := by decide +kernel

/-- Its last clause: 0x2A9 is neither data nor control. -/
theorem witness_forbidden_codeword : ¬ IsData State.reset.config 0x2A9 ∧ ¬ IsControl State.reset.config 0x2A9 := by
  rw [← not_or, ← inSet_validSet]
  decide +kernel

/-- `FromIntegerDigits`, `ToIntegerInverse`: both ends of the range, and one past each. -/
theorem witness_FromIntegerDigits : (0 : Int) ≤ 0 ∧ (0 : Int) < 2 ^ 0 ∧ (0 : Int) ≤ 255 ∧ (255 : Int) < 2 ^ 8 ∧ (2 : Int) ^ 8 ≤ 256 ∧ (-1 : Int) < 0 ∧ 7 < 8 := by
  decide

/-- `RotateMovesBits`, `HammingIsAMetric`: the narrowest width and the codeword's, the last index, the most rotations. -/
theorem witness_RotateMovesBits : 1 ≤ 1 ∧ 0 < 1 ∧ 1 ≤ 10 ∧ 9 < 10 ∧ 10 ≤ 10 := by decide

/-- `StageOneBitByBit`, `StageTwoOffersPolarities`, `EncoderKeepsItsProperties`: the first and the last bit, a
byte with two candidates, and a balanced byte under each operator. -/
theorem witness_encoder : 0 < 7 ∧ 6 < 7 ∧ bias (baseWord 0x00) ≠ 0 ∧ encodeByte .followX 0x00 = [0x100, 0x3FF] ∧
    bias (baseWord 0x10) = 0 ∧ flagX 0x10 = true ∧ bias (baseWord 0xEF) = 0 ∧ flagX 0xEF = false ∧
    0x1F0 ∈ encodeByte .followX 0x10 := by decide

theorem witness_ControlTableInverse : ctrlReverse CtrlTable.default 0x0AB = some (true, false) ∧
    ctrlReverse CtrlTable.default 0x2A9 = none ∧
    (∀ p ∈ allPairs, ∀ q ∈ allPairs,
      ctrlForward CtrlTable.default p.1 p.2 = ctrlForward CtrlTable.default q.1 q.2 → p = q) := by decide

/-- `BuildFillsTheTables`: a configuration that builds, and one that does not. -/
theorem witness_BuildFillsTheTables : (build Config.default).isSome = true ∧ build clashing = none ∧ build aliased = none := by
  decide +kernel

theorem witness_DataReverseIsExact : dataReverse .followX 0x1F0 = some 0x10 ∧ dataReverse .followX 0x2A9 = none ∧
    0x1F0 ∈ encodeByte .followX 0x10 := by decide +kernel

theorem witness_NearestValidIsExact : nearestValid 0x2A9 (singleton 0x2AB) = some (1, singleton 0x2AB) ∧
    nearestValid 0x2AB (singleton 0x2AB) = some (0, singleton 0x2AB) ∧ nearestValid 0x2A9 0 = none := by decide +kernel

end Sys2Proof.Tests
end

section
/-! The step and the host's inputs (spec R10, R129): what a step does with the input it takes, said once for every input that
decodes to an instruction. -/

namespace Sys2Proof.Machine

/-- While `F` is 1 an instruction is not looked at (R129), whichever it is. -/
theorem exec_of_faulted {s : State} (i : Instr) (h : faulted s = true) : exec i s = .next (answerFaulted s) := by
  rw [exec_eq_serve, serve_of_faulted h]

/-- The step's own check of `F` (log 17) changes nothing: `exec` answers a faulted state in the same way. -/
theorem serveInstr_eq_exec (i : Instr) (s : State) : serveInstr i s = exec i s := by
  unfold serveInstr
  split
  case isTrue h => exact (exec_of_faulted i h).symm
  case isFalse => rfl

/-- An input that decodes to an instruction runs exactly that instruction; reset decodes to none. -/
theorem serveInput_of_decodeInput {s : State} {u : HostInput} {i : Instr} (h : decodeInput s.config u = some i) :
    serveInput u s = exec i s := by
  cases u with
  | request w =>
    obtain rfl : decodeRequest w = i := Option.some.inj h
    exact serveInstr_eq_exec _ s
  | codeword c =>
    obtain rfl : decodeCodeword s.config c = i := Option.some.inj h
    exact serveInstr_eq_exec _ s
  | reset => cases h

/-- A step takes the input at the head of what the host presents (log 4). -/
theorem step_of_pending {s : State} {u : HostInput} {rest : List HostInput} (h : s.pending = u :: rest) :
    step s = serveInput u { s with pending := rest } := by
  unfold step takeStep
  rw [h]

/-- Settles O7: taking the input leaves the configuration as it is, so the input is decoded as it was presented. -/
theorem stepRunsDecodedInstruction : Obligations.StepRunsDecodedInstruction := by
  intro s u rest i hpending hdecode
  rw [step_of_pending hpending]
  exact serveInput_of_decodeInput hdecode

end Sys2Proof.Machine
end

section
/-! The sizes of sets of codewords (spec R52): of a complement, of a disjoint union, of the set of a list. -/

namespace Sys2Proof.Machine

theorem allCodewords_nodup : allCodewords.Nodup := by
  refine List.nodup_range.map_on fun x hx y hy hxy => ?_
  rw [List.mem_range] at hx hy
  have := congrArg BitVec.toNat hxy
  simpa [Nat.mod_eq_of_lt hx, Nat.mod_eq_of_lt hy] using this

theorem members_nodup (s : CodewordSet) : (members s).Nodup := allCodewords_nodup.filter _

/-- A list without repetitions that has exactly the members of a set has the set's size. -/
theorem card_eq_length {s : CodewordSet} {l : List Codeword} (hl : l.Nodup) (h : ∀ c, inSet c s = true ↔ c ∈ l) :
    card s = l.length := by
  have hperm : (members s).Perm l :=
    (List.perm_ext_iff_of_nodup (members_nodup s) hl).2 fun c => (mem_members c s).trans (h c)
  exact hperm.length_eq

theorem card_setOf {l : List Codeword} (hl : l.Nodup) : card (setOf l) = l.length :=
  card_eq_length hl fun c => by simp

theorem card_or_of_disjoint {s t : CodewordSet} (h : ∀ c, inSet c s = true → inSet c t = false) :
    card (s ||| t) = card s + card t := by
  have hnodup : (members s ++ members t).Nodup := by
    refine List.nodup_append'.2 ⟨members_nodup s, members_nodup t, fun c hs ht => ?_⟩
    rw [mem_members] at hs ht
    simp [h c hs] at ht
  rw [card_eq_length hnodup fun c => by simp, List.length_append, card, card]

theorem card_add_card_not (s : CodewordSet) : card s + card (~~~s) = 1024 := by
  rw [← card_or_of_disjoint fun c hc => by simp [hc]]
  have hall : card (s ||| ~~~s) = allCodewords.length :=
    card_eq_length allCodewords_nodup fun c => by
      rw [inSet_or, inSet_not]
      simp [mem_allCodewords]
  simpa [allCodewords] using hall

end Sys2Proof.Machine
end

section
/-! The build procedure (spec R94, R98): what each of its assignments can do, and what a build that succeeds has checked. -/

namespace Sys2Proof.Machine

/-- A fold that may fail, over a list with a head: the head succeeds, then the rest from there. -/
theorem foldlM_cons_eq_some {α β : Type} {f : β → α → Option β} {a : α} {l : List α} {b b' : β} :
    (a :: l).foldlM f b = some b' ↔ ∃ b₁, f b a = some b₁ ∧ l.foldlM f b₁ = some b' := by
  rw [List.foldlM_cons]
  exact Option.bind_eq_some_iff

/-- An assignment succeeds only outside the domain, and adds its codeword to it. -/
theorem claim_eq_some {α : Type} {m m' : PartialMap α} {c : Codeword} {v : α} :
    claim m c v = some m' ↔
      inSet c m.domain = false ∧ m' = { domain := m.domain ||| singleton c, entries := (c, v) :: m.entries } := by
  unfold claim
  split
  case isTrue h => simp [h]
  case isFalse h => simp [h, eq_comm]

/-! ### The bytes -/

/-- The domain after a list of assignments: the old one and the list. -/
theorem inSet_domain_of_claims {α : Type} {v : α} {l : List Codeword} {m m' : PartialMap α}
    (h : l.foldlM (fun m c => claim m c v) m = some m') (c : Codeword) :
    inSet c m'.domain = true ↔ inSet c m.domain = true ∨ c ∈ l := by
  induction l generalizing m with
  | nil =>
    obtain rfl : m = m' := Option.some.inj h
    simp
  | cons t rest ih =>
    obtain ⟨m₁, hclaim, hrest⟩ := foldlM_cons_eq_some.1 h
    obtain ⟨-, rfl⟩ := claim_eq_some.1 hclaim
    rw [ih hrest]
    simp [or_assoc]

/-- The build's step for a byte adds the byte's candidates to the data codewords. -/
theorem inSet_domain_of_buildByte {pol : BalPolarity} {r r' : Registry} {d : Byte} (h : buildByte pol r d = some r')
    (c : Codeword) :
    inSet c r'.dataReverse.domain = true ↔ inSet c r.dataReverse.domain = true ∨ c ∈ encodeByte pol d := by
  unfold buildByte at h
  split at h
  case h_1 => cases h
  case h_2 m hclaims =>
    obtain rfl := Option.some.inj h
    exact inSet_domain_of_claims hclaims c

theorem inSet_domain_of_buildBytes {pol : BalPolarity} {l : List Byte} {r r' : Registry}
    (h : l.foldlM (buildByte pol) r = some r') (c : Codeword) :
    inSet c r'.dataReverse.domain = true ↔ inSet c r.dataReverse.domain = true ∨ ∃ d ∈ l, c ∈ encodeByte pol d := by
  induction l generalizing r with
  | nil =>
    obtain rfl : r = r' := Option.some.inj h
    simp
  | cons d rest ih =>
    obtain ⟨r₁, hbyte, hrest⟩ := foldlM_cons_eq_some.1 h
    rw [ih hrest, inSet_domain_of_buildByte hbyte]
    simp [or_assoc]

/-! ### The control pairs -/

/-- The build's step for a pair succeeds only on a codeword with 7 transitions that is in neither domain, and claims it. -/
theorem buildPair_cases {t : CtrlTable} {r r' : Registry} {p : Bool × Bool} (h : buildPair t r p = some r') :
    7 ≤ transitions (ctrlForward t p.1 p.2) ∧ inSet (ctrlForward t p.1 p.2) r.dataReverse.domain = false ∧
    inSet (ctrlForward t p.1 p.2) r.ctrlReverse.domain = false ∧ r'.dataReverse = r.dataReverse ∧
    r'.ctrlReverse.domain = r.ctrlReverse.domain ||| singleton (ctrlForward t p.1 p.2) := by
  unfold buildPair at h
  split at h
  · cases h
  next hdense =>
    split at h
    · cases h
    next hdata =>
      split at h
      · cases h
      next m hclaim =>
        obtain ⟨hfresh, rfl⟩ := claim_eq_some.1 hclaim
        obtain rfl := Option.some.inj h
        exact ⟨Nat.le_of_not_lt hdense, Bool.eq_false_of_not_eq_true hdata, hfresh, rfl, rfl⟩

/-- Every pair of a list that the build accepts has a codeword with 7 transitions, in neither domain beforehand. -/
theorem checks_of_buildPairs {t : CtrlTable} {l : List (Bool × Bool)} {r r' : Registry}
    (h : l.foldlM (buildPair t) r = some r') {p : Bool × Bool} (hp : p ∈ l) :
    7 ≤ transitions (ctrlForward t p.1 p.2) ∧ inSet (ctrlForward t p.1 p.2) r.dataReverse.domain = false ∧
    inSet (ctrlForward t p.1 p.2) r.ctrlReverse.domain = false := by
  induction l generalizing r with
  | nil => cases hp
  | cons q rest ih =>
    obtain ⟨r₁, hpair, hrest⟩ := foldlM_cons_eq_some.1 h
    obtain ⟨hdense, hdata, hfresh, hsame, hdomain⟩ := buildPair_cases hpair
    rcases List.mem_cons.1 hp with rfl | hp
    · exact ⟨hdense, hdata, hfresh⟩
    · obtain ⟨hdense, hdata, hfresh⟩ := ih hrest hp
      rw [hsame] at hdata
      rw [hdomain, inSet_or, Bool.or_eq_false_iff] at hfresh
      exact ⟨hdense, hdata, hfresh.1⟩

/-- The codewords of a list of pairs that the build accepts are pairwise distinct. -/
theorem nodup_of_buildPairs {t : CtrlTable} {l : List (Bool × Bool)} {r r' : Registry}
    (h : l.foldlM (buildPair t) r = some r') : (l.map fun p => ctrlForward t p.1 p.2).Nodup := by
  induction l generalizing r with
  | nil => exact List.nodup_nil
  | cons q rest ih =>
    obtain ⟨r₁, hpair, hrest⟩ := foldlM_cons_eq_some.1 h
    obtain ⟨-, -, -, -, hdomain⟩ := buildPair_cases hpair
    refine List.nodup_cons.2 ⟨fun hmem => ?_, ih hrest⟩
    obtain ⟨p, hp, heq⟩ := List.mem_map.1 hmem
    obtain ⟨-, -, hfresh⟩ := checks_of_buildPairs hrest hp
    simp [hdomain, heq] at hfresh

/-! ### A build that succeeds -/

/-- A build that succeeds: all bytes, which leaves DATA as the domain, then all control pairs. -/
theorem build_cases {cfg : Config} (h : buildSucceeds cfg = true) :
    ∃ r r', (∀ c, inSet c r.dataReverse.domain = true ↔ IsData cfg c) ∧
      allPairs.foldlM (buildPair cfg.ctrlTable) r = some r' := by
  obtain ⟨r', hbuild⟩ := Option.isSome_iff_exists.1 h
  unfold build at hbuild
  split at hbuild
  case h_1 => cases hbuild
  case h_2 r hbytes =>
    refine ⟨r, r', fun c => ?_, hbuild⟩
    rw [inSet_domain_of_buildBytes hbytes]
    simp [emptyRegistry, emptyMap, mem_allBytes, IsData]

/-- A table whose build succeeds keeps the contract of R88. -/
theorem legalTable_of_buildSucceeds {cfg : Config} (h : buildSucceeds cfg = true) : LegalTable cfg := by
  obtain ⟨r, r', hdata, hpairs⟩ := build_cases h
  refine ⟨List.inj_on_of_nodup_map (nodup_of_buildPairs hpairs), fun p hp => (checks_of_buildPairs hpairs hp).1, fun p hp => ?_⟩
  obtain ⟨-, hapart, -⟩ := checks_of_buildPairs hpairs hp
  rwa [← hdata, Bool.not_eq_true]

end Sys2Proof.Machine
end

section
/-! The partition of the codewords (spec R19, R103): each registry set against the table it is the domain of, and the sizes
under the contract of R88. -/

namespace Sys2Proof.Machine

/-- `ctrlReverse` answers a pair exactly when the codeword is in CTRL. -/
theorem ctrlReverse_isSome (t : CtrlTable) (c : Codeword) :
    (ctrlReverse t c).isSome = true ↔ inSet c (ctrlSet t) = true := by
  rw [inSet_ctrlSet, ctrlReverse, List.find?_isSome]
  simp only [beq_iff_eq]
  exact ⟨fun ⟨p, _, h⟩ => ⟨p.1, p.2, h.symm⟩, fun ⟨c0, c1, h⟩ => ⟨(c0, c1), mem_allPairs _, h.symm⟩⟩

/-- FORB is what `classify` calls forbidden. -/
theorem inSet_forbiddenSet (cfg : Config) (c : Codeword) :
    inSet c (forbiddenSet cfg) = true ↔ classify cfg c = .forbidden := by
  rw [classify_eq_forbidden, romDataRev, romCtrlRev, ← Option.not_isSome_iff_eq_none, ← Option.not_isSome_iff_eq_none,
    dataReverse_isSome, ctrlReverse_isSome]
  simp [forbiddenSet, validSet]

/-- VALID is what `classify` does not call forbidden. -/
theorem inSet_validSet_iff_classify (cfg : Config) (c : Codeword) :
    inSet c (validSet cfg) = true ↔ classify cfg c ≠ .forbidden := by
  rw [Ne, ← inSet_forbiddenSet]
  simp [forbiddenSet]

namespace LegalTable

variable {cfg : Config} (h : LegalTable cfg)
include h

/-- No codeword is in both DATA and CTRL. -/
theorem not_inSet_ctrlSet {c : Codeword} (hc : inSet c (dataSet cfg.balPolarity) = true) :
    inSet c (ctrlSet cfg.ctrlTable) = false := by
  refine Bool.eq_false_of_not_eq_true fun hctrl => ?_
  obtain ⟨c0, c1, rfl⟩ := (inSet_ctrlSet _ c).1 hctrl
  exact h.apart (c0, c1) (mem_allPairs _) ((inSet_dataSet _ _).1 hc)

theorem card_ctrlSet : card (ctrlSet cfg.ctrlTable) = 4 := by
  have hnodup : (allPairs.map fun p => ctrlForward cfg.ctrlTable p.1 p.2).Nodup :=
    List.Nodup.map_on h.distinct (by decide)
  exact card_setOf hnodup

theorem card_partition :
    card (dataSet cfg.balPolarity) + card (ctrlSet cfg.ctrlTable) + card (forbiddenSet cfg) = 1024 := by
  rw [← card_or_of_disjoint fun _ => h.not_inSet_ctrlSet]
  exact card_add_card_not (validSet cfg)

/-- Every codeword has exactly one kind: DATA decides, then CTRL, and what is in neither is forbidden. -/
theorem exactly_one_kind (c : Codeword) :
    ((romDataRev cfg c).isSome = true ∧ (romCtrlRev cfg c).isSome = false ∧ classify cfg c ≠ .forbidden) ∨
    ((romDataRev cfg c).isSome = false ∧ (romCtrlRev cfg c).isSome = true ∧ classify cfg c ≠ .forbidden) ∨
    ((romDataRev cfg c).isSome = false ∧ (romCtrlRev cfg c).isSome = false ∧ classify cfg c = .forbidden) := by
  have hapart : (romDataRev cfg c).isSome = true → (romCtrlRev cfg c).isSome = false := fun hdata => by
    rw [Bool.eq_false_iff, romCtrlRev, Ne, ctrlReverse_isSome, h.not_inSet_ctrlSet ((dataReverse_isSome _ _).1 hdata)]
    exact Bool.false_ne_true
  rw [Ne, classify_eq_forbidden]
  cases hdata : romDataRev cfg c with
  | some d => simpa [hdata] using hapart
  | none => cases hctrl : romCtrlRev cfg c <;> simp

end LegalTable

/-- Settles O53: a build that succeeds has checked the contract of R88, and the contract keeps CTRL out of DATA. -/
theorem partitionLaw : Obligations.PartitionLaw := by
  intro cfg hbuild
  have hlegal := legalTable_of_buildSucceeds hbuild
  exact ⟨hlegal.exactly_one_kind,
    fun c => ⟨(dataReverse_isSome _ c).symm, (ctrlReverse_isSome _ c).symm, inSet_forbiddenSet cfg c,
      inSet_validSet_iff_classify cfg c⟩,
    hlegal.card_partition, hlegal.card_ctrlSet⟩

end Sys2Proof.Machine
end

section
/-! The layout of a request word and the operation map (spec R45, R46): each field as the bits the table names, a word as
the assembly of its fields, and the row that an assembled word decodes to. -/

namespace Sys2Proof.Machine

theorem opField_eq_extractLsb' (w : RequestWord) : opField w = w.extractLsb' 28 4 := by
  apply BitVec.eq_of_toNat_eq
  simp [opField, Nat.shiftRight_eq_div_pow]

theorem auxField_eq_extractLsb' (w : RequestWord) : auxField w = w.extractLsb' 24 4 := by
  apply BitVec.eq_of_toNat_eq
  simp [auxField, Nat.shiftRight_eq_div_pow]

theorem bField_eq_extractLsb' (w : RequestWord) : bField w = w.extractLsb' 12 12 := by
  apply BitVec.eq_of_toNat_eq
  simp [bField, Nat.shiftRight_eq_div_pow]

theorem aField_eq_extractLsb' (w : RequestWord) : aField w = w.extractLsb' 0 12 := by
  apply BitVec.eq_of_toNat_eq
  simp [aField]

/-- A word is made of its four fields: together they are its 32 bits. -/
theorem requestWord_fields (w : RequestWord) :
    requestWord (opField w) (auxField w) (bField w) (aField w) = w := by
  have hw := w.isLt
  apply BitVec.eq_of_toNat_eq
  simp only [requestWord, opField, auxField, bField, aField, BitVec.toNat_ofNat]
  omega

/-- Settles O4: the fields are read off their bits, and the bits of the four fields are the whole word. -/
theorem requestWordLayout : Obligations.RequestWordLayout := fun w =>
  ⟨opField_eq_extractLsb' w, auxField_eq_extractLsb' w, bField_eq_extractLsb' w, aField_eq_extractLsb' w,
    requestWord_fields w⟩

/-- An assembled word decodes to the row of its operation code, with the other fields as they were put in. -/
@[simp] theorem decodeRequest_requestWord (op aux : Nibble) (b a : Field) :
    decodeRequest (requestWord op aux b a) = decodeFields op.toNat aux b a := by
  simp only [decodeRequest, opField_requestWord, auxField_requestWord, bField_requestWord, aField_requestWord]

/-- Settles O3: for each of the sixteen codes, `decodeFields` at that code is the row. -/
theorem operationMap : Obligations.OperationMap := by
  intro aux b a
  simp only [decodeRequest_requestWord]
  exact ⟨rfl, rfl, rfl, rfl, rfl, rfl, rfl, rfl, rfl, rfl, rfl, rfl, rfl, rfl, rfl, rfl⟩

end Sys2Proof.Machine
end

section
/-! Responses and faults of an instruction (spec R48, R55, R128): the fault response holds no result, and a result that is
an error is taken as a fault. -/

namespace Sys2Proof.Machine

theorem resultBlank_faultResponse (s : State) : resultBlank (faultResponse s) := rfl

/-- Settles O16: each of the three things `exec` can do returns one response; two of them leave the core faulted, and
their response is the fault response. -/
theorem faultResponseHoldsNoResult : Obligations.FaultResponseHoldsNoResult := by
  intro s i
  rcases exec_cases i s with ⟨hF, hexec⟩ | ⟨-, cause, -, hexec⟩ | ⟨hF, body, -, hexec⟩
  case inl =>
    have hfsr : fsrF s.fsr = true := hF
    exact ⟨_, faultResponse s, hexec, rfl, rfl, rfl, by simp [hfsr], fun _ => resultBlank_faultResponse s, rfl, rfl⟩
  case inr.inl =>
    exact ⟨_, faultResponse (raiseFault cause (requestOf s.config i) s), hexec, rfl, rfl, rfl, by simp,
      fun _ => resultBlank_faultResponse _, rfl, rfl⟩
  case inr.inr =>
    have hfsr : fsrF s.fsr = false := hF
    exact ⟨_, okResponse body s, hexec, rfl, rfl, rfl, by simp [hfsr], fun h => absurd h (by simp), rfl, rfl⟩

/-- An unfaulted core takes the fault of an instruction whose result is an error, and records the instruction's request
word (R128). -/
theorem takesFault_of_resultOf {s : State} {i : Instr} {cause : Cause} (hF : fsrF s.fsr = false)
    (h : resultOf s.config i = .error cause) : TakesFault i s cause (requestOf s.config i) := by
  unfold TakesFault
  rw [exec_eq_serve, h, serve_of_error hF]
  rfl

/-- Settles O32: the result of a reserved code is `ILLEGAL_OP` without a look at the fields. -/
theorem reservedCodesFault : Obligations.ReservedCodesFault := by
  intro s aux b a hF
  exact ⟨takesFault_of_resultOf hF rfl, takesFault_of_resultOf hF rfl, takesFault_of_resultOf hF rfl,
    takesFault_of_resultOf hF rfl, takesFault_of_resultOf hF rfl, takesFault_of_resultOf hF rfl,
    takesFault_of_resultOf hF rfl, takesFault_of_resultOf hF rfl⟩

end Sys2Proof.Machine
end

section
/-! A symbol on the port (spec R51, R54): the payload of a control pair, and the tags in use. -/

namespace Sys2Proof.Machine

/-- The payload of a control pair is the packed pair (R54), which fits the byte. -/
theorem toNat_symbolPayload_control (c0 c1 : Bool) :
    (symbolPayload (.control c0 c1)).toNat = c0.toNat + 2 * c1.toNat := by
  cases c0 <;> cases c1 <;> rfl

theorem getLsbD_zero_symbolPayload_control (c0 c1 : Bool) : (symbolPayload (.control c0 c1)).getLsbD 0 = c0 := by
  rw [BitVec.getLsbD, toNat_symbolPayload_control]
  cases c0 <;> simp [Nat.testBit_zero]

theorem getLsbD_one_symbolPayload_control (c0 c1 : Bool) : (symbolPayload (.control c0 c1)).getLsbD 1 = c1 := by
  rw [BitVec.getLsbD, toNat_symbolPayload_control]
  cases c0 <;> cases c1 <;> rfl

theorem symbolTag_ne_three (sym : Symbol) : symbolTag sym ≠ 3 := by
  cases sym with
  | data byte => exact (by decide : (1 : BitVec 2) ≠ 3)
  | control c0 c1 => exact (by decide : (2 : BitVec 2) ≠ 3)
  | forbidden => exact (by decide : (0 : BitVec 2) ≠ 3)

/-- Settles O35: the data and forbidden clauses are the equations of the port, the control clauses the packed pair. -/
theorem symbolOnThePort : Obligations.SymbolOnThePort := by
  refine ⟨fun byte => ⟨rfl, rfl⟩, fun c0 c1 => ⟨rfl, getLsbD_zero_symbolPayload_control c0 c1,
    getLsbD_one_symbolPayload_control c0 c1, ?_⟩, rfl, rfl, symbolTag_ne_three⟩
  have h0 := c0.toNat_lt
  have h1 := c1.toNat_lt
  rw [toNat_symbolPayload_control]
  omega

end Sys2Proof.Machine
end

section
/-! The digits of a vector (spec R11, R60, R61): the lists and the counts of the model in terms of the bits `getLsbD`, and the
integer of a vector as its `toNat`. -/

namespace Sys2Proof.Machine

theorem toNat_testBit_zero (x : Nat) : (x.testBit 0).toNat = x % 2 := by
  rw [Nat.toNat_testBit, Nat.pow_zero, Nat.div_one]

theorem beq_mod_two_one (x : Nat) : Nat.beq (x % 2) 1 = x.testBit 0 := by
  rw [Nat.testBit_zero]
  rcases Nat.mod_two_eq_zero_or_one x with h | h <;> rw [h] <;> rfl

/-- `digits` lists the binary digits, index 0 first. -/
theorem digits_eq_map_testBit (k x : Nat) : digits k x = (List.range k).map x.testBit := by
  induction k generalizing x with
  | zero => rfl
  | succ k ih =>
    rw [digits, ih, List.range_succ_eq_map, List.map_cons, List.map_map, beq_mod_two_one]
    simp [Function.comp_def, Nat.testBit_succ]

/-- The bits of a vector, index 0 first. -/
theorem bitsOf_eq_map_getLsbD {n : Nat} (v : BitVec n) : bitsOf v = (List.range n).map v.getLsbD :=
  digits_eq_map_testBit n v.toNat

/-- The integer of the first `k` digits is what is left of the integer at width `k`. -/
theorem valueOf_digits (k x : Nat) : valueOf (digits k x) = x % 2 ^ k := by
  induction k generalizing x with
  | zero => simp [digits, valueOf, Nat.mod_one]
  | succ k ih =>
    rw [digits, valueOf, ih, beq_mod_two_one, toNat_testBit_zero, Nat.pow_succ', Nat.mod_mul]

@[simp] theorem toInteger_eq_toNat {n : Nat} (v : BitVec n) : toInteger v = v.toNat := by
  rw [toInteger, bitsOf, valueOf_digits, Nat.mod_eq_of_lt v.isLt]

theorem digitSum_eq_countP (k x : Nat) : digitSum k x = (List.range k).countP x.testBit := by
  induction k generalizing x with
  | zero => rfl
  | succ k ih =>
    rw [digitSum, ih, List.range_succ_eq_map, List.countP_cons, List.countP_map, ← toNat_testBit_zero, Nat.add_comm]
    simp [Function.comp_def, Nat.testBit_succ, Bool.toNat]

end Sys2Proof.Machine
end

section
/-! The value of an integer at a width (spec R60, R132). -/

namespace Sys2Proof.Machine

/-- `fromInteger` has the value `v` exactly at the integer of `v`: it never cuts an integer off (R132). -/
theorem fromInteger_eq_some_iff {x : Int} {n : Nat} {v : BitVec n} : fromInteger x n = some v ↔ x = v.toNat := by
  have hv : (v.toNat : Int) < 2 ^ n := mod_cast v.isLt
  unfold fromInteger
  split
  case isTrue h =>
    obtain ⟨hpos, hlt⟩ := h
    lift x to Nat using hpos
    have hx : x < 2 ^ n := mod_cast hlt
    rw [Option.some_inj, ← BitVec.toNat_inj, Int.toNat_natCast, BitVec.toNat_ofNat, Nat.mod_eq_of_lt hx, Nat.cast_inj]
  case isFalse h =>
    refine iff_of_false (by simp) fun hx => h ?_
    omega

theorem fromInteger_eq_none_iff {x : Int} {n : Nat} : fromInteger x n = none ↔ x < 0 ∨ 2 ^ n ≤ x := by
  unfold fromInteger
  split
  case isTrue h => exact iff_of_false (by simp) (by omega)
  case isFalse h => exact iff_of_true rfl (by omega)

/-- An integer in range is the integer of `v` exactly when its binary digits are the bits of `v`. -/
theorem eq_toNat_iff_digits {x n : Nat} (hx : x < 2 ^ n) (v : BitVec n) :
    x = v.toNat ↔ ∀ i < n, v.getLsbD i = decide (x / 2 ^ i % 2 = 1) := by
  constructor
  case mp =>
    rintro rfl i -
    exact Nat.testBit_eq_decide_div_mod_eq
  case mpr =>
    intro h
    have hv : v = BitVec.ofNat n x := by
      apply BitVec.eq_of_getLsbD_eq
      intro i hi
      rw [h i hi, BitVec.getLsbD_ofNat, Nat.testBit_eq_decide_div_mod_eq]
      simp [hi]
    rw [hv, BitVec.toNat_ofNat, Nat.mod_eq_of_lt hx]

/-- Settles O36: the value at an integer in range is the vector of its digits, and there is none out of range. -/
theorem fromIntegerDigits : Obligations.FromIntegerDigits := by
  refine ⟨fun n x v => ?digits, fun n x => fromInteger_eq_none_iff, fun n => ⟨?zero, ?allOnes, ?tooLarge⟩, by decide⟩
  case digits =>
    have hv : (v.toNat : Int) < 2 ^ n := mod_cast v.isLt
    rw [fromInteger_eq_some_iff]
    by_cases hrange : 0 ≤ x ∧ x < 2 ^ n
    · obtain ⟨hpos, hlt⟩ := hrange
      lift x to Nat using hpos
      have hx : x < 2 ^ n := mod_cast hlt
      rw [Nat.cast_inj, eq_toNat_iff_digits hx]
      simp only [Int.natCast_nonneg, hlt, true_and]
      norm_cast
    · exact iff_of_false (by omega) fun ⟨hpos, hlt, _⟩ => hrange ⟨hpos, hlt⟩
  case zero => exact fromInteger_eq_some_iff.2 (by simp)
  case allOnes =>
    have hpow : 1 ≤ 2 ^ n := Nat.one_le_two_pow
    rw [fromInteger_eq_some_iff, BitVec.toNat_allOnes]
    push_cast [hpow]
    rfl
  case tooLarge => exact fromInteger_eq_none_iff.2 (.inr le_rfl)

end Sys2Proof.Machine
end

section
/-! Rotation (spec R62): the integer and the bits of a vector rotated once, and the laws of repeated rotation. -/

namespace Sys2Proof.Machine

/-- LEFT on the integer (R62): the sum stays in range, so nothing of it is cut off. -/
theorem toNat_rotate_left {n : Nat} (v : BitVec n) (hn : 1 ≤ n) :
    (rotate v .left).toNat = 2 * v.toNat % 2 ^ n + v.toNat / 2 ^ (n - 1) := by
  obtain ⟨m, rfl⟩ : ∃ m, n = m + 1 := ⟨n - 1, by omega⟩
  have hv : v.toNat < 2 * 2 ^ m := by rw [← Nat.pow_succ']; exact v.isLt
  have htop : v.toNat / 2 ^ m < 2 := Nat.div_lt_of_lt_mul (by rwa [Nat.mul_comm])
  have hlow : v.toNat % 2 ^ m < 2 ^ m := Nat.mod_lt _ (Nat.two_pow_pos m)
  rw [rotate, BitVec.toNat_ofNat, Nat.mod_eq_of_lt]
  rw [Nat.pow_succ', Nat.mul_mod_mul_left, Nat.add_sub_cancel]
  omega

theorem toNat_rotate_right {n : Nat} (v : BitVec n) (hn : 1 ≤ n) :
    (rotate v .right).toNat = v.toNat / 2 + v.toNat % 2 * 2 ^ (n - 1) := by
  obtain ⟨m, rfl⟩ : ∃ m, n = m + 1 := ⟨n - 1, by omega⟩
  have hv : v.toNat < 2 * 2 ^ m := by rw [← Nat.pow_succ']; exact v.isLt
  rw [rotate, BitVec.toNat_ofNat, Nat.mod_eq_of_lt]
  rw [Nat.pow_succ', Nat.add_sub_cancel]
  rcases Nat.mod_two_eq_zero_or_one v.toNat with h | h <;> rw [h] <;> omega

/-- LEFT moves each bit to the next higher index, and the bit at index `n - 1` to index 0 (R62). -/
theorem getLsbD_rotate_left {n i : Nat} (v : BitVec n) (hi : i < n) :
    (rotate v .left).getLsbD ((i + 1) % n) = v.getLsbD i := by
  obtain ⟨m, rfl⟩ : ∃ m, n = m + 1 := ⟨n - 1, by omega⟩
  have hv : v.toNat < 2 ^ m * 2 := by rw [← Nat.pow_succ]; exact v.isLt
  have htop : v.toNat / 2 ^ m < 2 ^ 1 := Nat.div_lt_of_lt_mul hv
  rw [BitVec.getLsbD, toNat_rotate_left v (by omega), Nat.pow_succ', Nat.mul_mod_mul_left, Nat.add_sub_cancel,
    ← Nat.pow_one 2, ← Nat.pow_mul, Nat.one_mul, Nat.testBit_two_pow_mul_add _ htop]
  rcases Nat.lt_succ_iff_lt_or_eq.1 hi with hlt | rfl
  · rw [Nat.mod_eq_of_lt (by omega)]
    simp [hlt, BitVec.getLsbD]
  · simp [BitVec.getLsbD, Nat.testBit_eq_decide_div_mod_eq]

/-- RIGHT moves each bit to the next lower index, and the bit at index 0 to index `n - 1` (R62). -/
theorem getLsbD_rotate_right {n i : Nat} (v : BitVec n) (hi : i < n) :
    (rotate v .right).getLsbD i = v.getLsbD ((i + 1) % n) := by
  obtain ⟨m, rfl⟩ : ∃ m, n = m + 1 := ⟨n - 1, by omega⟩
  have hv : v.toNat < 2 * 2 ^ m := by rw [← Nat.pow_succ']; exact v.isLt
  have hlow : v.toNat / 2 < 2 ^ m := Nat.div_lt_of_lt_mul hv
  rw [BitVec.getLsbD, toNat_rotate_right v (by omega), Nat.add_sub_cancel, Nat.add_comm, Nat.mul_comm,
    Nat.testBit_two_pow_mul_add _ hlow]
  rcases Nat.lt_succ_iff_lt_or_eq.1 hi with hlt | rfl
  · rw [Nat.mod_eq_of_lt (a := i + 1) (by omega)]
    simp [hlt, BitVec.getLsbD, Nat.testBit_succ]
  · simp [BitVec.getLsbD]

/-- RIGHT undoes LEFT. -/
theorem rotate_right_rotate_left {n : Nat} (v : BitVec n) : rotate (rotate v .left) .right = v :=
  BitVec.eq_of_getLsbD_eq fun i hi => by rw [getLsbD_rotate_right _ hi, getLsbD_rotate_left v hi]

theorem rotl_eq_iterate {n : Nat} (k : Nat) (v : BitVec n) : rotl k v = (fun x : BitVec n => rotate x .left)^[k] v := by
  induction k generalizing v with
  | zero => rfl
  | succ k ih => rw [rotl, ih, Function.iterate_succ_apply]

/-- `rotl^k` moves each bit `k` indices up, modulo the width. -/
theorem getLsbD_rotl {n i : Nat} (k : Nat) (v : BitVec n) (hi : i < n) :
    (rotl k v).getLsbD ((i + k) % n) = v.getLsbD i := by
  induction k generalizing v i with
  | zero => rw [rotl, Nat.add_zero, Nat.mod_eq_of_lt hi]
  | succ k ih =>
    have hnext : (i + 1) % n < n := Nat.mod_lt _ (by omega)
    have hindex : (i + (k + 1)) % n = ((i + 1) % n + k) % n := by rw [Nat.mod_add_mod]; congr 1; omega
    rw [rotl, hindex, ih _ hnext, getLsbD_rotate_left v hi]

/-- A whole turn. -/
theorem rotl_width {n : Nat} (v : BitVec n) : rotl n v = v :=
  BitVec.eq_of_getLsbD_eq fun i hi => by
    have h := getLsbD_rotl n v hi
    rwa [Nat.add_mod_right, Nat.mod_eq_of_lt hi] at h

/-- `k` rotations right undo the last `k` of the `n` rotations left that make a whole turn. -/
theorem iterate_rotate_right {n k : Nat} (v : BitVec n) (hk : k ≤ n) :
    (fun x : BitVec n => rotate x .right)^[k] v = rotl (n - k) v := by
  have hinv : Function.LeftInverse (fun x : BitVec n => rotate x .right) (fun x => rotate x .left) :=
    rotate_right_rotate_left
  have hturn : (fun x : BitVec n => rotate x .left)^[k] (rotl (n - k) v) = v := by
    rw [rotl_eq_iterate, ← Function.iterate_add_apply, Nat.add_sub_cancel' hk, ← rotl_eq_iterate, rotl_width]
  calc (fun x : BitVec n => rotate x .right)^[k] v
      = (fun x : BitVec n => rotate x .right)^[k] ((fun x : BitVec n => rotate x .left)^[k] (rotl (n - k) v)) := by
        rw [hturn]
    _ = rotl (n - k) v := hinv.iterate k _

/-- Settles O38: where one rotation moves each bit decides the laws of repeated rotation. -/
theorem rotateMovesBits : Obligations.RotateMovesBits :=
  ⟨fun _ v hn => ⟨fun _ hi => getLsbD_rotate_left v hi, fun _ hi => getLsbD_rotate_right v hi, toNat_rotate_left v hn,
    rotate_right_rotate_left v, fun k => rotl_eq_iterate k v, rotl_width v, fun _ hk => iterate_rotate_right v hk⟩,
    by decide, by decide⟩

end Sys2Proof.Machine
end

section
/-! Complement and counts (spec R63, R66 to R69): the bits of the complement, and each count over the bits of a vector. -/

namespace Sys2Proof.Machine

theorem getLsbD_invert {n i : Nat} (v : BitVec n) (hi : i < n) : (invert v).getLsbD i = !v.getLsbD i := by
  simp [invert, hi]

@[simp] theorem invert_invert {n : Nat} (v : BitVec n) : invert (invert v) = v := BitVec.not_not

theorem toInteger_invert {n : Nat} (v : BitVec n) : toInteger (invert v) = 2 ^ n - 1 - toInteger v := by
  have hv : v.toNat + 1 ≤ 2 ^ n := v.isLt
  rw [toInteger_eq_toNat, toInteger_eq_toNat, invert, BitVec.toNat_not]
  push_cast [Nat.sub_sub, Nat.add_comm 1, hv]
  ring

/-- Settles O39, from the laws of the complement on vectors and on their integers. -/
theorem invertComplements : Obligations.InvertComplements :=
  ⟨fun _ v => ⟨fun _ hi => getLsbD_invert v hi, invert_invert v, toInteger_invert v⟩, by decide⟩

/-! ### Transitions -/

/-- The adjacent changes of a tabulated list, counted over the indices that have a next one. -/
theorem adjacentChanges_map_range (f : Nat → Bool) (n : Nat) :
    adjacentChanges ((List.range n).map f) = (List.range (n - 1)).countP fun i => f i != f (i + 1) := by
  induction n generalizing f with
  | zero => rfl
  | succ n ih =>
    cases n with
    | zero => rfl
    | succ n =>
      have hrest := ih fun i => f (i + 1)
      simp only [List.range_succ_eq_map, List.map_cons, List.map_map, Nat.add_sub_cancel, List.countP_cons, List.countP_map,
        Function.comp_def, adjacentChanges] at hrest ⊢
      rw [hrest, Nat.add_comm]
      simp [xorBit, Bool.toNat]

theorem transitions_eq_countP {n : Nat} (v : BitVec n) :
    transitions v = (List.range (n - 1)).countP fun i => v.getLsbD i != v.getLsbD (i + 1) := by
  rw [transitions, bitsOf_eq_map_getLsbD, adjacentChanges_map_range]

theorem transitions_le {n : Nat} (v : BitVec n) : transitions v ≤ n - 1 := by
  rw [transitions_eq_countP]
  exact List.countP_le_length.trans_eq List.length_range

/-- Two bits differ exactly when their complements do. -/
theorem transitions_invert {n : Nat} (v : BitVec n) : transitions (invert v) = transitions v := by
  rw [transitions_eq_countP, transitions_eq_countP]
  refine List.countP_congr fun i hi => ?_
  rw [List.mem_range] at hi
  rw [getLsbD_invert v (by omega), getLsbD_invert v (by omega)]
  simp

/-- Settles O41: the bound and the law of the complement both come from the count over the indices. -/
theorem transitionsCountChanges : Obligations.TransitionsCountChanges :=
  ⟨fun _ v => ⟨transitions_eq_countP v, transitions_le v, transitions_invert v⟩, by decide, by decide, by decide⟩

/-! ### Ones, zeros, bias -/

theorem ones_eq_countP {n : Nat} (v : BitVec n) : ones v = (List.range n).countP fun i => v.getLsbD i :=
  digitSum_eq_countP n v.toNat

theorem ones_le {n : Nat} (v : BitVec n) : ones v ≤ n := by
  rw [ones_eq_countP]
  exact List.countP_le_length.trans_eq List.length_range

theorem ones_add_zeros {n : Nat} (v : BitVec n) : ones v + zeros v = n := Nat.add_sub_of_le (ones_le v)

/-- Each index holds a 1 of the vector or a 1 of its complement. -/
theorem ones_add_ones_invert {n : Nat} (v : BitVec n) : ones v + ones (invert v) = n := by
  have hcompl : ones (invert v) = (List.range n).countP fun i => !v.getLsbD i := by
    rw [ones_eq_countP]
    refine List.countP_congr fun i hi => ?_
    rw [getLsbD_invert v (List.mem_range.1 hi)]
  rw [hcompl, ones_eq_countP]
  simpa using (List.length_eq_countP_add_countP (l := List.range n) fun i => v.getLsbD i).symm

/-- The ones of the complement are the zeros. -/
theorem ones_invert {n : Nat} (v : BitVec n) : ones (invert v) = zeros v := by
  have h := ones_add_ones_invert v
  have h' := ones_add_zeros v
  omega

theorem zeros_invert {n : Nat} (v : BitVec n) : zeros (invert v) = ones v := by
  rw [← ones_invert, invert_invert]

theorem bias_invert {n : Nat} (v : BitVec n) : bias (invert v) = -bias v := by
  rw [bias, bias, ones_invert, zeros_invert, neg_sub]

/-- Settles O42: every clause is arithmetic from `ones + zeros = n`, but the count of `ones` and the complement's bias. -/
theorem onesZerosBias : Obligations.OnesZerosBias := by
  refine ⟨fun n v => ?_, by decide, by decide, by decide, by decide⟩
  have hsum := ones_add_zeros v
  have hbias : bias v = (ones v : Int) - (zeros v : Int) := rfl
  refine ⟨ones_eq_countP v, ones_le v, ?_, ?_, ?_, ?_, ?_, ?_, bias_invert v⟩ <;> omega

end Sys2Proof.Machine
end

section
/-! `HAM` (spec R70, R72): the result of the operation in one equation, and an answer from a result that is no error. -/

namespace Sys2Proof.Machine

/-- An unfaulted core answers an instruction whose result is no error, and its state is otherwise as it was. -/
theorem answersWith_of_resultOf {s : State} {i : Instr} {body : Response} (hF : fsrF s.fsr = false)
    (h : resultOf s.config i = .ok body) : AnswersWith i s body := by
  unfold AnswersWith
  rw [exec_eq_serve, h, serve_of_ok hF]
  rfl

theorem hamming_le {n : Nat} (a b : BitVec n) : hamming a b ≤ n := ones_le _

/-- The distance of two codewords fits its response field (R50). -/
theorem toNat_dist_hamming (x y : Codeword) : (BitVec.ofNat 4 (hamming x y)).toNat = hamming x y := by
  have h := hamming_le x y
  rw [BitVec.toNat_ofNat, Nat.mod_eq_of_lt (by omega)]

/-- The checks of `HAM` in order: the widths of both operands, then `aux` (R72). -/
theorem hamResult_eq (aux : Nibble) (b a : Field) :
    hamResult aux b a =
      if a.toNat > 1023 ∨ b.toNat > 1023 then .error .cwWidth
      else if aux ≠ 0 then .error .badAux
      else .ok { Response.blank with
        dist := BitVec.ofNat 4 (hamming (BitVec.ofNat 10 a.toNat) (BitVec.ofNat 10 b.toNat)) } := by
  rw [hamResult, codewordOperand_eq, codewordOperand_eq, unusedAux_eq]
  by_cases ha : a.toNat ≤ 1023
  case neg => rw [if_neg ha, error_bind, if_pos (.inl (Nat.lt_of_not_le ha))]
  case pos =>
    by_cases hb : b.toNat ≤ 1023
    case neg => rw [if_pos ha, ok_bind, if_neg hb, error_bind, if_pos (.inr (Nat.lt_of_not_le hb))]
    case pos =>
      have hfit : ¬ (a.toNat > 1023 ∨ b.toNat > 1023) := by omega
      rw [if_pos ha, ok_bind, if_pos hb, ok_bind, if_neg hfit]
      by_cases haux : aux = 0
      · rw [if_pos haux, ok_bind, if_neg (not_not.2 haux)]
        rfl
      · rw [if_neg haux, error_bind, if_pos haux]

/-- The fields of an assembled word do not overlap (R45). -/
theorem toNat_requestWord (op aux : Nibble) (b a : Field) :
    (requestWord op aux b a).toNat =
      op.toNat * 0x10000000 + aux.toNat * 0x1000000 + b.toNat * 0x1000 + a.toNat := by
  have hop := op.isLt
  have haux := aux.isLt
  have hb := b.isLt
  have ha := a.isLt
  simp only [requestWord, BitVec.toNat_ofNat]
  omega

/-- Settles O27: each clause is one branch of `hamResult_eq`. -/
theorem hamAnswersDistance : Obligations.HamAnswersDistance := by
  intro s aux b a hF
  have hres : resultOf s.config (.ham aux b a) = hamResult aux b a := rfl
  rw [hamResult_eq] at hres
  refine ⟨toNat_requestWord 0x4 0 b a, fun hwide => ?width, fun ha hb haux => ?unused, fun ha hb haux => ?answer⟩
  case width =>
    rw [if_pos hwide] at hres
    exact takesFault_of_resultOf hF hres
  case unused =>
    rw [if_neg (by omega), if_pos haux] at hres
    exact takesFault_of_resultOf hF hres
  case answer =>
    rw [if_neg (by omega), if_neg (not_not.2 haux)] at hres
    exact ⟨_, toNat_dist_hamming _ _, answersWith_of_resultOf hF hres⟩

end Sys2Proof.Machine
end

section
/-! Stage 1 of the encoder bit by bit (spec R76 to R78, R84): the bits of a vector given as a list, the operator choice in
numbers, the chain on the previous output bit, and what it says about the changes of the base word. -/

namespace Sys2Proof.Machine

/-! ### Lists of bits -/

theorem testBit_valueOf (l : List Bool) (i : Nat) : (valueOf l).testBit i = l.getD i false := by
  induction l generalizing i with
  | nil => simp [valueOf]
  | cons b rest ih =>
    cases i with
    | zero => cases b <;> simp [valueOf]
    | succ i =>
      have hhalf : (b.toNat + 2 * valueOf rest) / 2 = valueOf rest := by have := b.toNat_le; omega
      rw [valueOf, Nat.testBit_succ, hhalf, ih, List.getD_cons_succ]

theorem getLsbD_ofBits {n i : Nat} (l : List Bool) (hi : i < n) : (ofBits n l).getLsbD i = l.getD i false := by
  rw [ofBits, BitVec.getLsbD_ofNat, testBit_valueOf, decide_eq_true hi, Bool.true_and]

theorem getD_bitsOf {n i : Nat} (v : BitVec n) (hi : i < n) : (bitsOf v).getD i false = v.getLsbD i := by
  simp [bitsOf_eq_map_getLsbD, hi]

theorem length_bitsOf {n : Nat} (v : BitVec n) : (bitsOf v).length = n := by
  simp [bitsOf_eq_map_getLsbD]

/-! ### The operator and the chain -/

theorem useXnor_iff (d : Byte) : useXnor d = true ↔ ones d > 4 ∨ (ones d = 4 ∧ d.getLsbD 0 = false) := by
  simp [useXnor]

theorem flagX_eq_false_iff (d : Byte) : flagX d = false ↔ useXnor d = true := by
  simp [flagX]

/-- The first argument of the operator is the bit before in the OUTPUT (R77). -/
theorem getD_chain_succ (op : Bool → Bool → Bool) (previous : Bool) {l : List Bool} {k : Nat} (hk : k < l.length) :
    (previous :: chain op previous l).getD (k + 1) false =
      op ((previous :: chain op previous l).getD k false) (l.getD k false) := by
  induction l generalizing previous k with
  | nil => simp at hk
  | cons d rest ih =>
    cases k with
    | zero => rfl
    | succ k => exact ih (op previous d) (Nat.lt_of_succ_lt_succ hk)

theorem getD_baseBits_zero (op : Bool → Bool → Bool) (l : List Bool) :
    (baseBits op l).getD 0 false = l.getD 0 false := by
  cases l <;> rfl

theorem getD_baseBits_succ (op : Bool → Bool → Bool) {l : List Bool} {k : Nat} (hk : k + 1 < l.length) :
    (baseBits op l).getD (k + 1) false = op ((baseBits op l).getD k false) (l.getD (k + 1) false) := by
  cases l with
  | nil => simp at hk
  | cons d rest => exact getD_chain_succ op d (Nat.lt_of_succ_lt_succ hk)

theorem baseWord_eq (d : Byte) :
    baseWord d = ofBits 8 (baseBits (if useXnor d then xnorBit else xorBit) (bitsOf d)) := by
  unfold baseWord
  split <;> rfl

theorem getLsbD_baseWord_zero (d : Byte) : (baseWord d).getLsbD 0 = d.getLsbD 0 := by
  rw [baseWord_eq, getLsbD_ofBits _ (by decide), getD_baseBits_zero, getD_bitsOf d (by decide)]

theorem getLsbD_baseWord_succ (d : Byte) {k : Nat} (hk : k < 7) :
    (baseWord d).getLsbD (k + 1) =
      if useXnor d then xnorBit ((baseWord d).getLsbD k) (d.getLsbD (k + 1))
      else xorBit ((baseWord d).getLsbD k) (d.getLsbD (k + 1)) := by
  have hlen : k + 1 < (bitsOf d).length := by rw [length_bitsOf]; omega
  rw [baseWord_eq, getLsbD_ofBits _ (by omega), getLsbD_ofBits _ (by omega), getD_baseBits_succ _ hlen,
    getD_bitsOf d (by omega)]
  split <;> rfl

/-! ### The changes of the base word -/

/-- R84 (a): the base word changes into an index exactly where the byte's bit is 1 under XOR, is 0 under XNOR. -/
theorem baseWord_changes (d : Byte) {k : Nat} (hk : k < 7) :
    ((baseWord d).getLsbD k != (baseWord d).getLsbD (k + 1)) = (d.getLsbD (k + 1) != useXnor d) := by
  rw [getLsbD_baseWord_succ d hk]
  generalize (baseWord d).getLsbD k = previous, d.getLsbD (k + 1) = bit, useXnor d = xnor
  decide +revert

/-- R84 (c): the base word and the operator determine the byte. -/
theorem stage1_injective {d₁ d₂ : Byte} (hbase : baseWord d₁ = baseWord d₂) (hop : useXnor d₁ = useXnor d₂) :
    d₁ = d₂ := by
  apply BitVec.eq_of_getLsbD_eq
  intro i hi
  cases i with
  | zero => rw [← getLsbD_baseWord_zero, hbase, getLsbD_baseWord_zero]
  | succ k =>
    have h₁ := baseWord_changes d₁ (k := k) (by omega)
    have h₂ := baseWord_changes d₂ (k := k) (by omega)
    rw [hbase, hop, h₂] at h₁
    exact (Bool.bne_left_inj.1 h₁).symm

theorem transitions_baseWord (d : Byte) :
    transitions (baseWord d) = (List.range 7).countP fun k => d.getLsbD (k + 1) != useXnor d := by
  rw [transitions_eq_countP]
  refine List.countP_congr fun k hk => ?_
  rw [baseWord_changes d (List.mem_range.1 hk)]

theorem ones_eq_bit_zero_add {n : Nat} (v : BitVec (n + 1)) :
    ones v = (v.getLsbD 0).toNat + (List.range n).countP fun k => v.getLsbD (k + 1) := by
  rw [ones_eq_countP, List.range_succ_eq_map, List.countP_cons, List.countP_map, Nat.add_comm]
  simp [Function.comp_def, Bool.toNat]

theorem transitions_baseWord_of_xor {d : Byte} (h : useXnor d = false) :
    (d.getLsbD 0).toNat + transitions (baseWord d) = ones d := by
  rw [transitions_baseWord, ones_eq_bit_zero_add, h]
  simp

theorem transitions_baseWord_of_xnor {d : Byte} (h : useXnor d = true) :
    transitions (baseWord d) + ones d = 7 + (d.getLsbD 0).toNat := by
  have hsplit : (List.range 7).countP (fun k => d.getLsbD (k + 1)) +
      (List.range 7).countP (fun k => d.getLsbD (k + 1) != true) = 7 := by
    simpa using (List.length_eq_countP_add_countP (l := List.range 7) fun k => d.getLsbD (k + 1)).symm
  rw [transitions_baseWord, ones_eq_bit_zero_add, h]
  omega

/-- R84 (b): XOR is chosen when few of the bits 1 to 7 are 1, XNOR when few of them are 0. -/
theorem transitions_baseWord_le (d : Byte) : transitions (baseWord d) ≤ 3 := by
  cases hop : useXnor d with
  | false =>
    have hfew := mt (useXnor_iff d).2 (ne_true_of_eq_false hop)
    have hcount := transitions_baseWord_of_xor hop
    generalize d.getLsbD 0 = bit at hfew hcount
    cases bit <;> simp at hfew hcount <;> omega
  | true =>
    have hmany := (useXnor_iff d).1 hop
    have hcount := transitions_baseWord_of_xnor hop
    generalize d.getLsbD 0 = bit at hmany hcount
    cases bit <;> simp at hmany hcount <;> omega

end Sys2Proof.Machine
end

section
/-! Stage 2 of the encoder (spec R79, R80, R81): the candidates of a byte, their fields, and the byte a codeword belongs to. -/

namespace Sys2Proof.Machine

/-! ### The candidates -/

theorem encodeByte_of_unbalanced (pol : BalPolarity) {d : Byte} (h : bias (baseWord d) ≠ 0) :
    encodeByte pol d = [directCodeword (baseWord d) (flagX d), invertedCodeword (baseWord d) (flagX d)] :=
  if_pos h

theorem encodeByte_followX_of_balanced {d : Byte} (h : bias (baseWord d) = 0) :
    encodeByte .followX d =
      if flagX d then [directCodeword (baseWord d) (flagX d)] else [invertedCodeword (baseWord d) (flagX d)] :=
  if_neg (not_not.2 h)

theorem encodeByte_alwaysDirect_of_balanced {d : Byte} (h : bias (baseWord d) = 0) :
    encodeByte .alwaysDirect d = [directCodeword (baseWord d) (flagX d)] :=
  if_neg (not_not.2 h)

/-- Everything stage 2 can answer: both codewords of the base word, the direct one first, or one of them alone. -/
theorem encodeByte_cases (pol : BalPolarity) (d : Byte) :
    encodeByte pol d = [directCodeword (baseWord d) (flagX d), invertedCodeword (baseWord d) (flagX d)] ∨
    encodeByte pol d = [directCodeword (baseWord d) (flagX d)] ∨
    encodeByte pol d = [invertedCodeword (baseWord d) (flagX d)] := by
  by_cases h : bias (baseWord d) = 0
  case neg => exact .inl (encodeByte_of_unbalanced pol h)
  case pos =>
    cases pol with
    | alwaysDirect => exact .inr (.inl (encodeByte_alwaysDirect_of_balanced h))
    | followX =>
      rw [encodeByte_followX_of_balanced h]
      split
      · exact .inr (.inl rfl)
      · exact .inr (.inr rfl)

theorem eq_of_mem_encodeByte {pol : BalPolarity} {d : Byte} {c : Codeword} (h : c ∈ encodeByte pol d) :
    c = directCodeword (baseWord d) (flagX d) ∨ c = invertedCodeword (baseWord d) (flagX d) := by
  have hsub : encodeByte pol d ⊆ [directCodeword (baseWord d) (flagX d), invertedCodeword (baseWord d) (flagX d)] := by
    rcases encodeByte_cases pol d with hlist | hlist | hlist <;> simp [hlist]
  simpa using hsub h

/-! ### Their fields -/

@[simp] theorem payloadOf_directCodeword (base : Byte) (x : Bool) : payloadOf (directCodeword base x) = base :=
  payloadOf_joinCodeword _ _ _

@[simp] theorem payloadOf_invertedCodeword (base : Byte) (x : Bool) :
    payloadOf (invertedCodeword base x) = invert base :=
  payloadOf_joinCodeword _ _ _

@[simp] theorem bitX_directCodeword (base : Byte) (x : Bool) : bitX (directCodeword base x) = x :=
  bitX_joinCodeword _ _ _

@[simp] theorem bitX_invertedCodeword (base : Byte) (x : Bool) : bitX (invertedCodeword base x) = x :=
  bitX_joinCodeword _ _ _

@[simp] theorem bitI_directCodeword (base : Byte) (x : Bool) : bitI (directCodeword base x) = false :=
  bitI_joinCodeword _ _ _

@[simp] theorem bitI_invertedCodeword (base : Byte) (x : Bool) : bitI (invertedCodeword base x) = true :=
  bitI_joinCodeword _ _ _

@[simp] theorem baseOf_directCodeword (base : Byte) (x : Bool) : baseOf (directCodeword base x) = base := by
  simp [baseOf]

@[simp] theorem baseOf_invertedCodeword (base : Byte) (x : Bool) : baseOf (invertedCodeword base x) = base := by
  simp [baseOf]

theorem bitX_of_mem_encodeByte {pol : BalPolarity} {d : Byte} {c : Codeword} (h : c ∈ encodeByte pol d) :
    bitX c = flagX d := by
  rcases eq_of_mem_encodeByte h with rfl | rfl <;> simp

theorem baseOf_of_mem_encodeByte {pol : BalPolarity} {d : Byte} {c : Codeword} (h : c ∈ encodeByte pol d) :
    baseOf c = baseWord d := by
  rcases eq_of_mem_encodeByte h with rfl | rfl <;> simp

/-- Settles O44: the chain of stage 1, and `X` as every candidate holds it. -/
theorem stageOneBitByBit : Obligations.StageOneBitByBit := fun d =>
  ⟨useXnor_iff d, getLsbD_baseWord_zero d, fun _ hk => getLsbD_baseWord_succ d hk, flagX_eq_false_iff d,
    fun _ _ hc => bitX_of_mem_encodeByte hc⟩

/-- Settles O45: each branch of stage 2 by its own equation, then the fields of the two codewords. -/
theorem stageTwoOffersPolarities : Obligations.StageTwoOffersPolarities := by
  intro d
  refine ⟨fun pol h => encodeByte_of_unbalanced pol h, fun h hX => ?xor, fun h hX => ?xnor,
    encodeByte_alwaysDirect_of_balanced, ⟨by simp, by simp, by simp⟩, ⟨by simp, by simp, by simp⟩⟩
  case xor => rw [encodeByte_followX_of_balanced h, if_pos hX]
  case xnor => rw [encodeByte_followX_of_balanced h, hX, if_neg Bool.false_ne_true]

/-! ### The byte of a codeword -/

/-- Two bytes never share a codeword (R84 (c)), whatever the polarity of each. -/
theorem byte_eq_of_mem_encodeByte {pol₁ pol₂ : BalPolarity} {d₁ d₂ : Byte} {c : Codeword}
    (h₁ : c ∈ encodeByte pol₁ d₁) (h₂ : c ∈ encodeByte pol₂ d₂) : d₁ = d₂ := by
  refine stage1_injective ((baseOf_of_mem_encodeByte h₁).symm.trans (baseOf_of_mem_encodeByte h₂)) ?_
  have hX := (bitX_of_mem_encodeByte h₁).symm.trans (bitX_of_mem_encodeByte h₂)
  exact Bool.not_inj hX

theorem dataReverse_of_mem_encodeByte {pol : BalPolarity} {d : Byte} {c : Codeword} (h : c ∈ encodeByte pol d) :
    dataReverse pol c = some d := by
  have hsome : (dataReverse pol c).isSome = true := (dataReverse_isSome pol c).2 ((inSet_dataSet pol c).2 ⟨d, h⟩)
  obtain ⟨e, he⟩ := Option.isSome_iff_exists.1 hsome
  rw [he, byte_eq_of_mem_encodeByte (mem_of_dataReverse he) h]

/-- R85 (c): classification of a candidate gives its byte back. -/
theorem classify_of_mem_encodeByte {cfg : Config} {d : Byte} {c : Codeword}
    (h : c ∈ encodeByte cfg.balPolarity d) : classify cfg c = .data d :=
  classify_eq_data.2 (dataReverse_of_mem_encodeByte h)

end Sys2Proof.Machine
end

section
/-! The properties of the encoder (spec R84 (b), (d), R85): transitions and bias of a codeword from its payload and its two
flag bits. -/

namespace Sys2Proof.Machine

/-! ### A codeword from its payload and flags -/

theorem payloadOf_eq_extractLsb' (c : Codeword) : payloadOf c = c.extractLsb' 0 8 := by
  apply BitVec.eq_of_toNat_eq
  simp [payloadOf]

theorem getLsbD_payloadOf (c : Codeword) {i : Nat} (hi : i < 8) : (payloadOf c).getLsbD i = c.getLsbD i := by
  simp [payloadOf_eq_extractLsb', hi]

/-- One bit more is one more boundary. -/
theorem transitions_extractLsb'_succ_le {n : Nat} (v : BitVec n) (m : Nat) :
    transitions (v.extractLsb' 0 (m + 1)) ≤ transitions (v.extractLsb' 0 m) + 1 := by
  cases m with
  | zero => exact (transitions_le _).trans (Nat.zero_le _)
  | succ m =>
    have hfirst : (List.range m).countP (fun i => (v.extractLsb' 0 (m + 2)).getLsbD i !=
          (v.extractLsb' 0 (m + 2)).getLsbD (i + 1)) = transitions (v.extractLsb' 0 (m + 1)) := by
      rw [transitions_eq_countP]
      refine List.countP_congr fun i hi => ?_
      have hi' := List.mem_range.1 hi
      simp [show i < m + 2 by omega, show i < m + 1 by omega, hi']
    rw [transitions_eq_countP, ← hfirst, Nat.add_sub_cancel, List.range_succ, List.countP_append]
    exact Nat.add_le_add_left List.countP_le_length _

theorem transitions_flagged_payload_le (c : Codeword) :
    transitions (c.extractLsb' 0 9) ≤ transitions (payloadOf c) + 1 := by
  rw [payloadOf_eq_extractLsb']
  exact transitions_extractLsb'_succ_le c 8

theorem transitions_codeword_le (c : Codeword) : transitions c ≤ transitions (c.extractLsb' 0 9) + 1 := by
  have h := transitions_extractLsb'_succ_le c 9
  rwa [BitVec.extractLsb'_eq_self] at h

theorem ones_codeword (c : Codeword) : ones c = ones (payloadOf c) + (bitX c).toNat + (bitI c).toNat := by
  have hpayload : ones (payloadOf c) = (List.range 8).countP fun i => c.getLsbD i := by
    rw [ones_eq_countP]
    exact List.countP_congr fun i hi => by rw [getLsbD_payloadOf c (List.mem_range.1 hi)]
  rw [ones_eq_countP, hpayload, List.range_succ, List.range_succ, List.countP_append, List.countP_append]
  simp [bitX, bitI, Bool.toNat, Bool.cond_eq_ite]

/-- The bias as a count of ones alone. -/
theorem bias_eq_two_mul_ones_sub {n : Nat} (v : BitVec n) : bias v = 2 * (ones v : Int) - n := by
  have h := ones_add_zeros v
  rw [bias]
  omega

/-! ### The candidates of a byte -/

theorem transitions_payloadOf_le {pol : BalPolarity} {d : Byte} {c : Codeword} (h : c ∈ encodeByte pol d) :
    transitions (payloadOf c) ≤ 3 := by
  have hbase := transitions_baseWord_le d
  rcases eq_of_mem_encodeByte h with rfl | rfl
  · rwa [payloadOf_directCodeword]
  · rwa [payloadOf_invertedCodeword, transitions_invert]

/-- Over ten bits the two biases do not cancel: the two codewords share `X` (conflict C3). -/
theorem bias_directCodeword_add_bias_invertedCodeword (base : Byte) (x : Bool) :
    bias (directCodeword base x) + bias (invertedCodeword base x) = if x then 2 else -2 := by
  have hones := ones_add_ones_invert base
  simp only [bias_eq_two_mul_ones_sub, ones_codeword, payloadOf_directCodeword, payloadOf_invertedCodeword,
    bitX_directCodeword, bitX_invertedCodeword, bitI_directCodeword, bitI_invertedCodeword]
  cases x <;> simp <;> omega

/-- The two candidates of a byte that has two are the direct and the inverted codeword of its base word. -/
theorem eq_of_encodeByte_eq_pair {pol : BalPolarity} {d : Byte} {c₁ c₂ : Codeword} (h : encodeByte pol d = [c₁, c₂]) :
    c₁ = directCodeword (baseWord d) (flagX d) ∧ c₂ = invertedCodeword (baseWord d) (flagX d) := by
  rcases encodeByte_cases pol d with hlist | hlist | hlist <;> rw [hlist] at h
  case inl => simpa [eq_comm] using h
  all_goals simp at h

theorem length_encodeByte (pol : BalPolarity) (d : Byte) :
    (encodeByte pol d).length = 1 ∨ (encodeByte pol d).length = 2 := by
  rcases encodeByte_cases pol d with hlist | hlist | hlist <;> simp [hlist]

/-- Settles O46: the bounds from the base word's, one more for each flag bit; the pair from the base word's complement. -/
theorem encoderKeepsItsProperties : Obligations.EncoderKeepsItsProperties := by
  intro pol d
  refine ⟨length_encodeByte pol d, transitions_baseWord_le d, fun c hc => ?each, fun c₁ c₂ hpair => ?pair⟩
  case each =>
    have hpayload := transitions_payloadOf_le hc
    have hnine := transitions_flagged_payload_le c
    have hten := transitions_codeword_le c
    exact ⟨hpayload, by omega, by omega, fun t => classify_of_mem_encodeByte hc⟩
  case pair =>
    obtain ⟨rfl, rfl⟩ := eq_of_encodeByte_eq_pair hpair
    simp only [payloadOf_directCodeword, payloadOf_invertedCodeword, bitI_directCodeword, bitI_invertedCodeword,
      bitX_directCodeword, bitX_invertedCodeword, bias_invert, add_neg_cancel, true_and]
    exact bias_directCodeword_add_bias_invertedCodeword _ _

end Sys2Proof.Machine
end

section
/-! `ENC` (spec R83): the result of the operation in one equation. -/

namespace Sys2Proof.Machine

/-- The checks of `ENC` in order: the range of the byte, then both unused fields (R83). -/
theorem encResult_eq (cfg : Config) (aux : Nibble) (b a : Field) :
    encResult cfg aux b a =
      if a.toNat > 255 then .error .byteRange
      else if b ≠ 0 ∨ aux ≠ 0 then .error .badAux
      else .ok (candidateBody (encodeByte cfg.balPolarity (BitVec.ofNat 8 a.toNat))) := by
  rw [encResult, byteOperand_eq, unusedField_eq, unusedAux_eq]
  by_cases ha : a.toNat ≤ 255
  case neg => rw [if_neg ha, error_bind, if_pos (Nat.lt_of_not_le ha)]
  case pos =>
    rw [if_pos ha, ok_bind, if_neg (Nat.not_lt.2 ha)]
    by_cases hb : b = 0
    case neg => rw [if_neg hb, error_bind, if_pos (.inl hb)]
    case pos =>
      by_cases haux : aux = 0
      · rw [if_pos hb, ok_bind, if_pos haux, ok_bind, if_neg (by simp [hb, haux])]
        rfl
      · rw [if_pos hb, ok_bind, if_neg haux, error_bind, if_pos (.inr haux)]

/-- Settles O24: each fault is one branch of `encResult_eq`, and the answer depends on whether stage 2 gives one candidate
or two. -/
theorem encAnswersCandidates : Obligations.EncAnswersCandidates := by
  intro s aux b a hF
  have hres : resultOf s.config (.enc aux b a) = encResult s.config aux b a := rfl
  rw [encResult_eq] at hres
  refine ⟨toNat_requestWord 0x1 0 0 a, fun hwide => ?range, fun ha hunused => ?unused, fun ha hb haux => ?answer⟩
  case range =>
    rw [if_pos hwide] at hres
    exact takesFault_of_resultOf hF hres
  case unused =>
    rw [if_neg (Nat.not_lt.2 ha), if_pos hunused] at hres
    exact takesFault_of_resultOf hF hres
  case answer =>
    rw [if_neg (Nat.not_lt.2 ha), if_neg (by simp [hb, haux])] at hres
    have hanswer := answersWith_of_resultOf hF hres
    rcases encodeByte_cases s.config.balPolarity (BitVec.ofNat 8 a.toNat) with hlist | hlist | hlist <;>
      rw [hlist] at hanswer
    · exact ⟨_, _, hlist, .inr ⟨_, rfl, hanswer⟩⟩
    · exact ⟨_, _, hlist, .inl ⟨rfl, hanswer⟩⟩
    · exact ⟨_, _, hlist, .inl ⟨rfl, hanswer⟩⟩

end Sys2Proof.Machine
end

section
/-! The control table (spec R87 to R90): the reverse lookup against the forward one. -/

namespace Sys2Proof.Machine

theorem ctrlReverse_eq_none_iff {t : CtrlTable} {c : Codeword} :
    ctrlReverse t c = none ↔ ∀ c0 c1, ctrlForward t c0 c1 ≠ c := by
  rw [← Option.not_isSome_iff_eq_none, ctrlReverse_isSome, inSet_ctrlSet]
  simp only [not_exists, ne_eq, eq_comm (a := c)]

/-- The reverse lookup finds some pair with the same codeword, and distinct entries leave only the pair itself. -/
theorem ctrlReverse_ctrlForward {t : CtrlTable}
    (hdistinct : ∀ p ∈ allPairs, ∀ q ∈ allPairs, ctrlForward t p.1 p.2 = ctrlForward t q.1 q.2 → p = q) (c0 c1 : Bool) :
    ctrlReverse t (ctrlForward t c0 c1) = some (c0, c1) := by
  have hsome : (ctrlReverse t (ctrlForward t c0 c1)).isSome = true :=
    (ctrlReverse_isSome t _).2 ((inSet_ctrlSet t _).2 ⟨c0, c1, rfl⟩)
  obtain ⟨q, hq⟩ := Option.isSome_iff_exists.1 hsome
  rw [hq, hdistinct q (mem_allPairs q) (c0, c1) (mem_allPairs _) (ctrlForward_of_ctrlReverse hq)]

/-- Settles O47: the forward lookup by its four rows, the reverse one by what it finds. -/
theorem controlTableInverse : Obligations.ControlTableInverse :=
  ⟨fun _ => ⟨rfl, rfl, rfl, rfl⟩, fun _ _ => ⟨fun _ _ => ctrlForward_of_ctrlReverse, ctrlReverse_eq_none_iff⟩,
    fun _ => ctrlReverse_ctrlForward⟩

end Sys2Proof.Machine
end

section
/-! `CTL` (spec R91): the codeword of a packed pair, and the result of the operation in one equation. -/

namespace Sys2Proof.Machine

/-- Both unused fields must be 0 before the operation goes on (R49). -/
theorem unusedField_bind_unusedAux {α : Type} (b : Field) (aux : Nibble) (k : Except Cause α) :
    (unusedField b >>= fun _ => unusedAux aux >>= fun _ => k) = if b ≠ 0 ∨ aux ≠ 0 then .error .badAux else k := by
  rw [unusedField_eq, unusedAux_eq]
  by_cases hb : b = 0
  case neg => rw [if_neg hb, error_bind, if_pos (.inl hb)]
  case pos =>
    rw [if_pos hb, ok_bind]
    by_cases haux : aux = 0
    · rw [if_pos haux, ok_bind, if_neg (by simp [hb, haux])]
    · rw [if_neg haux, error_bind, if_pos (.inr haux)]

/-- The pair operand keeps the two low bits of the field, which are the pair (R54). -/
theorem romCtrlFwd_ofNat_toNat (cfg : Config) (a : Field) :
    romCtrlFwd cfg (BitVec.ofNat 2 a.toNat) = ctrlForward cfg.ctrlTable (a.getLsbD 0) (a.getLsbD 1) := by
  rw [BitVec.ofNat_toNat, romCtrlFwd, pairC0, pairC1]
  simp

/-- The checks of `CTL` in order: the range of the pair, then both unused fields (R91). -/
theorem ctlResult_eq (cfg : Config) (aux : Nibble) (b a : Field) :
    ctlResult cfg aux b a =
      if a.toNat > 3 then .error .ctrlPair
      else if b ≠ 0 ∨ aux ≠ 0 then .error .badAux
      else .ok { Response.blank with cw0 := ctrlForward cfg.ctrlTable (a.getLsbD 0) (a.getLsbD 1) } := by
  rw [ctlResult, pairOperand_eq]
  by_cases ha : a.toNat ≤ 3
  case neg => rw [if_neg ha, error_bind, if_pos (Nat.lt_of_not_le ha)]
  case pos =>
    rw [if_pos ha, ok_bind, if_neg (Nat.not_lt.2 ha), unusedField_bind_unusedAux, romCtrlFwd_ofNat_toNat]
    rfl

/-- Settles O25: each clause is one branch of `ctlResult_eq`. -/
theorem ctlAnswersControlCodeword : Obligations.CtlAnswersControlCodeword := by
  intro s aux b a hF
  have hres : resultOf s.config (.ctl aux b a) = ctlResult s.config aux b a := rfl
  rw [ctlResult_eq] at hres
  refine ⟨toNat_requestWord 0x2 0 0 a, fun hwide => ?pair, fun ha hunused => ?unused, fun ha hb haux => ?answer⟩
  case pair =>
    rw [if_pos hwide] at hres
    exact takesFault_of_resultOf hF hres
  case unused =>
    rw [if_neg (Nat.not_lt.2 ha), if_pos hunused] at hres
    exact takesFault_of_resultOf hF hres
  case answer =>
    rw [if_neg (Nat.not_lt.2 ha), if_neg (by simp [hb, haux])] at hres
    exact answersWith_of_resultOf hF hres

end Sys2Proof.Machine
end

section
/-! The reverse map of the data codewords (spec R96): exact, and its domain counted byte by byte, since no two bytes share a
candidate. -/

namespace Sys2Proof.Machine

theorem dataReverse_eq_some_iff {pol : BalPolarity} {c : Codeword} {d : Byte} :
    dataReverse pol c = some d ↔ c ∈ encodeByte pol d :=
  ⟨mem_of_dataReverse, dataReverse_of_mem_encodeByte⟩

/-! ### How many candidates there are -/

/-- The polarity chooses which codeword a balanced base word gets, never how many (R79). -/
theorem length_encodeByte_eq_ite (pol : BalPolarity) (d : Byte) :
    (encodeByte pol d).length = if bias (baseWord d) ≠ 0 then 2 else 1 := by
  by_cases h : bias (baseWord d) = 0
  case neg => rw [encodeByte_of_unbalanced pol h, if_pos h]; rfl
  case pos =>
    rw [if_neg (not_not.2 h)]
    cases pol with
    | alwaysDirect => rw [encodeByte_alwaysDirect_of_balanced h]; rfl
    | followX => rw [encodeByte_followX_of_balanced h]; split <;> rfl

theorem length_flatMap_encodeByte (pol : BalPolarity) (l : List Byte) :
    (l.flatMap (encodeByte pol)).length = l.length + l.countP fun d => bias (baseWord d) ≠ 0 := by
  induction l with
  | nil => rfl
  | cons d rest ih =>
    rw [List.flatMap_cons, List.length_append, ih, length_encodeByte_eq_ite, List.length_cons, List.countP_cons]
    simp only [decide_eq_true_eq]
    split <;> omega

/-- The one number that stage 1 has to be evaluated for; the other 52 base words are balanced. -/
theorem countP_unbalanced_allBytes : (allBytes.countP fun d => bias (baseWord d) ≠ 0) = 204 := by decide +kernel

/-! ### No candidate is counted twice -/

theorem directCodeword_ne_invertedCodeword (base : Byte) (x : Bool) :
    directCodeword base x ≠ invertedCodeword base x := fun h => by
  simpa using congrArg bitI h

theorem encodeByte_nodup (pol : BalPolarity) (d : Byte) : (encodeByte pol d).Nodup := by
  rcases encodeByte_cases pol d with hlist | hlist | hlist <;> rw [hlist]
  case inl => simpa using directCodeword_ne_invertedCodeword _ _
  all_goals exact List.nodup_singleton _

/-- The numbers below `2 ^ n` stay distinct as words of width `n`. -/
theorem map_ofNat_range_nodup (n : Nat) : ((List.range (2 ^ n)).map (BitVec.ofNat n)).Nodup := by
  refine List.nodup_range.map_on fun x hx y hy hxy => ?_
  have hmod := congrArg BitVec.toNat hxy
  rwa [BitVec.toNat_ofNat, BitVec.toNat_ofNat, Nat.mod_eq_of_lt (List.mem_range.1 hx),
    Nat.mod_eq_of_lt (List.mem_range.1 hy)] at hmod

theorem allBytes_nodup : allBytes.Nodup := map_ofNat_range_nodup 8

theorem allBytes_flatMap_encodeByte_nodup (pol : BalPolarity) : (allBytes.flatMap (encodeByte pol)).Nodup := by
  refine List.nodup_flatMap.2 ⟨fun d _ => encodeByte_nodup pol d, ?_⟩
  exact List.Pairwise.imp (fun hne c h₁ h₂ => hne (byte_eq_of_mem_encodeByte h₁ h₂)) allBytes_nodup

/-- 256 bytes, of which 204 have a second candidate. -/
theorem card_dataSet (pol : BalPolarity) : card (dataSet pol) = 460 := by
  have hbytes : allBytes.length = 256 := by simp [allBytes]
  rw [dataSet, card_setOf (allBytes_flatMap_encodeByte_nodup pol), length_flatMap_encodeByte, hbytes,
    countP_unbalanced_allBytes]

/-- Settles O50: the reverse map finds a byte that holds the codeword, and stage 1 leaves only one such byte. -/
theorem dataReverseIsExact : Obligations.DataReverseIsExact := fun pol =>
  ⟨fun _ _ => dataReverse_eq_some_iff, fun _ _ _ h₁ h₂ => byte_eq_of_mem_encodeByte h₁ h₂,
    fun c => (dataReverse_isSome pol c).symm, card_dataSet pol⟩

end Sys2Proof.Machine
end

section
/-! `CNT` (spec R104): each of the three sets against the tag of the classification, their sizes in every configuration, and
the result of the operation in one equation. -/

namespace Sys2Proof.Machine

/-! ### The sets and the tags -/

theorem symbolTag_eq_one_iff {sym : Symbol} : symbolTag sym = 1 ↔ ∃ d, sym = .data d := by
  cases sym <;> simp [symbolTag]

theorem symbolTag_eq_two_iff {sym : Symbol} : symbolTag sym = 2 ↔ ∃ c0 c1, sym = .control c0 c1 := by
  cases sym <;> simp [symbolTag]

theorem symbolTag_eq_zero_iff {sym : Symbol} : symbolTag sym = 0 ↔ sym = .forbidden := by
  cases sym <;> simp [symbolTag]

/-- DATA is what `classify` calls data. -/
theorem inSet_dataSet_iff_classify (cfg : Config) (c : Codeword) :
    inSet c (dataSet cfg.balPolarity) = true ↔ ∃ d, classify cfg c = .data d := by
  simp only [classify_eq_data, romDataRev, dataReverse_eq_some_iff, inSet_dataSet]

/-- The codewords of CTRL outside DATA are what `classify` calls control. -/
theorem inSet_controlSet_iff_classify (cfg : Config) (c : Codeword) :
    inSet c (controlSet cfg) = true ↔ ∃ c0 c1, classify cfg c = .control c0 c1 := by
  have hctrl : (∃ c0 c1, romCtrlRev cfg c = some (c0, c1)) ↔ inSet c (ctrlSet cfg.ctrlTable) = true := by
    rw [← ctrlReverse_isSome, Option.isSome_iff_exists, Prod.exists, romCtrlRev]
  have hdata : romDataRev cfg c = none ↔ ¬ inSet c (dataSet cfg.balPolarity) = true := by
    rw [← dataReverse_isSome, Option.not_isSome_iff_eq_none, romDataRev]
  simp only [classify_eq_control, exists_and_left, hctrl, hdata, controlSet, inSet_and, inSet_not, Bool.and_eq_true,
    Bool.not_eq_true', Bool.not_eq_true, and_comm]

/-! ### The sizes -/

/-- The size of a set as a count over the codewords that a test picks out. -/
theorem card_eq_countP {s : CodewordSet} {p : Codeword → Bool} (h : ∀ c, inSet c s = true ↔ p c = true) :
    card s = allCodewords.countP p := by
  rw [card, members, ← List.countP_eq_length_filter]
  exact List.countP_congr fun c _ => h c

theorem card_le (s : CodewordSet) : card s ≤ 1024 :=
  (Nat.le_add_right _ _).trans_eq (card_add_card_not s)

/-- A size fits its response field (log 18). -/
theorem toNat_sizeField (s : CodewordSet) : (sizeField s).toNat = card s := by
  have h := card_le s
  rw [sizeField, BitVec.toNat_ofNat, Nat.mod_eq_of_lt (by omega)]

theorem validSet_eq_dataSet_or_controlSet (cfg : Config) :
    validSet cfg = dataSet cfg.balPolarity ||| controlSet cfg := by
  refine set_ext fun c => ?_
  simp only [validSet, controlSet, inSet_or, inSet_and, inSet_not]
  cases inSet c (dataSet cfg.balPolarity) <;> simp

/-- The three sizes add up in every configuration, with a legal control table or not: `controlSet` leaves out DATA. -/
theorem card_classes (cfg : Config) :
    card (dataSet cfg.balPolarity) + card (controlSet cfg) + card (forbiddenSet cfg) = 1024 := by
  rw [← card_or_of_disjoint fun c hc => by simp [controlSet, hc], ← validSet_eq_dataSet_or_controlSet]
  exact card_add_card_not (validSet cfg)

/-- Under the contract of R88 nothing of CTRL is left out. -/
theorem LegalTable.controlSet_eq_ctrlSet {cfg : Config} (h : LegalTable cfg) : controlSet cfg = ctrlSet cfg.ctrlTable := by
  refine set_ext fun c => ?_
  rw [controlSet, inSet_and, inSet_not]
  cases hdata : inSet c (dataSet cfg.balPolarity) with
  | false => simp
  | true => simp [h.not_inSet_ctrlSet hdata]

/-! ### The operation -/

/-- The checks of `CNT`: all three fields are unused (R104). -/
theorem cntResult_eq (cfg : Config) (aux : Nibble) (b a : Field) :
    cntResult cfg aux b a =
      if a ≠ 0 ∨ b ≠ 0 ∨ aux ≠ 0 then .error .badAux
      else .ok { Response.blank with
        n := sizeField (dataSet cfg.balPolarity), n2 := sizeField (controlSet cfg), n3 := sizeField (forbiddenSet cfg) } := by
  rw [cntResult, unusedField_eq, unusedField_bind_unusedAux]
  by_cases ha : a = 0
  case neg => rw [if_neg ha, error_bind, if_pos (.inl ha)]
  case pos =>
    rw [if_pos ha, ok_bind]
    simp only [ha, ne_eq, not_true_eq_false, false_or]
    rfl

/-- Settles O31: each count is the size of the set its tag names; the build's contract gives the four control codewords. -/
theorem cntCountsCodewordSpace : Obligations.CntCountsCodewordSpace := by
  refine ⟨by rw [toNat_requestWord]; rfl, fun s aux b a hF => ?_⟩
  have hres : resultOf s.config (.cnt aux b a) = cntResult s.config aux b a := rfl
  rw [cntResult_eq] at hres
  refine ⟨fun hunused => ?unused, fun ha hb haux => ?answer⟩
  case unused =>
    rw [if_pos hunused] at hres
    exact takesFault_of_resultOf hF hres
  case answer =>
    rw [if_neg (by simp [ha, hb, haux])] at hres
    refine ⟨_, _, _, ?data, ?control, ?forbidden, ?total, fun hbuild => ?four, answersWith_of_resultOf hF hres⟩
    case data =>
      rw [toNat_sizeField]
      exact card_eq_countP fun c => by rw [beq_iff_eq, symbolTag_eq_one_iff, inSet_dataSet_iff_classify]
    case control =>
      rw [toNat_sizeField]
      exact card_eq_countP fun c => by rw [beq_iff_eq, symbolTag_eq_two_iff, inSet_controlSet_iff_classify]
    case forbidden =>
      rw [toNat_sizeField]
      exact card_eq_countP fun c => by rw [beq_iff_eq, symbolTag_eq_zero_iff, inSet_forbiddenSet]
    case total =>
      rw [toNat_sizeField, toNat_sizeField, toNat_sizeField]
      exact card_classes s.config
    case four =>
      have hlegal := legalTable_of_buildSucceeds hbuild
      rw [sizeField, hlegal.controlSet_eq_ctrlSet, hlegal.card_ctrlSet]
      rfl

end Sys2Proof.Machine
end

section
/-! `CLS` (spec R101): the result of the operation in one equation. -/

namespace Sys2Proof.Machine

/-- The payload of a control symbol is the packed pair in numbers (R54). -/
theorem symbolPayload_control (c0 c1 : Bool) :
    symbolPayload (.control c0 c1) = BitVec.ofNat 8 (c0.toNat + 2 * c1.toNat) := by
  cases c0 <;> cases c1 <;> rfl

/-- The checks of `CLS` in order: the width of the codeword, then both unused fields (R101). -/
theorem clsResult_eq (cfg : Config) (aux : Nibble) (b a : Field) :
    clsResult cfg aux b a =
      if a.toNat > 1023 then .error .cwWidth
      else if b ≠ 0 ∨ aux ≠ 0 then .error .badAux
      else .ok (symbolBody (classify cfg (BitVec.ofNat 10 a.toNat))) := by
  rw [clsResult, codewordOperand_eq]
  by_cases ha : a.toNat ≤ 1023
  case neg => rw [if_neg ha, error_bind, if_pos (Nat.lt_of_not_le ha)]
  case pos =>
    rw [if_pos ha, ok_bind, if_neg (Nat.not_lt.2 ha), unusedField_bind_unusedAux]
    rfl

/-- Settles O26: each fault is one branch of `clsResult_eq`; the answer is that of the symbol, a forbidden one too. -/
theorem clsAnswersSymbol : Obligations.ClsAnswersSymbol := by
  intro s aux b a hF
  have hres : resultOf s.config (.cls aux b a) = clsResult s.config aux b a := rfl
  rw [clsResult_eq] at hres
  refine ⟨toNat_requestWord 0x3 0 0 a, fun hwide => ?width, fun ha hunused => ?unused, fun ha hb haux => ?answer⟩
  case width =>
    rw [if_pos hwide] at hres
    exact takesFault_of_resultOf hF hres
  case unused =>
    rw [if_neg (Nat.not_lt.2 ha), if_pos hunused] at hres
    exact takesFault_of_resultOf hF hres
  case answer =>
    rw [if_neg (Nat.not_lt.2 ha), if_neg (by simp [hb, haux])] at hres
    have hanswer := answersWith_of_resultOf hF hres
    refine ⟨fun byte hsym => ?data, fun c0 c1 hsym => ?control, fun hsym => ?forbidden⟩ <;> rw [hsym] at hanswer
    case data => exact hanswer
    case control => rwa [symbolBody, symbolPayload_control] at hanswer
    case forbidden => exact hanswer

end Sys2Proof.Machine
end

section
/-! The nearest-codeword search (spec R110 to R112): what the minimum and the set of minimisers are, and what distance 0 to a
set means. -/

namespace Sys2Proof.Machine

/-! ### Distance 0 -/

theorem ones_eq_zero_iff {n : Nat} {v : BitVec n} : ones v = 0 ↔ v = 0#n := by
  rw [ones_eq_countP, List.countP_eq_zero]
  constructor
  case mp => exact fun h => BitVec.eq_of_getLsbD_eq fun i hi => by simpa using h i (List.mem_range.2 hi)
  case mpr => rintro rfl; simp

theorem hamming_eq_zero_iff {n : Nat} {a b : BitVec n} : hamming a b = 0 ↔ a = b := by
  rw [hamming, ones_eq_zero_iff, BitVec.xor_eq_zero_iff]

/-! ### The search -/

theorem minDistance_eq_some_iff {c : Codeword} {s : CodewordSet} {d : Nat} :
    minDistance c s = some d ↔
      (∃ t, inSet t s = true ∧ hamming c t = d) ∧ ∀ t, inSet t s = true → d ≤ hamming c t := by
  simp only [minDistance, List.min?_eq_some_iff, List.mem_map, mem_members, forall_exists_index, and_imp,
    forall_apply_eq_imp_iff₂]

theorem members_eq_nil_iff {s : CodewordSet} : members s = [] ↔ s = 0 := by
  rw [List.eq_nil_iff_forall_not_mem]
  constructor
  case mp => exact fun h => set_ext fun t => by simpa using h t
  case mpr => rintro rfl; simp

theorem minDistance_eq_none_iff {c : Codeword} {s : CodewordSet} : minDistance c s = none ↔ s = 0 := by
  rw [minDistance, List.min?_eq_none_iff, List.map_eq_nil_iff, members_eq_nil_iff]

theorem inSet_atDistance {c t : Codeword} {s : CodewordSet} {d : Nat} :
    inSet t (atDistance c s d) = true ↔ inSet t s = true ∧ hamming c t = d := by
  simp [atDistance]

theorem nearestValid_eq_map (c : Codeword) (s : CodewordSet) :
    nearestValid c s = (minDistance c s).map fun d => (d, atDistance c s d) := by
  unfold nearestValid
  cases minDistance c s with
  | none => rfl
  | some d => rfl

theorem nearestValid_eq_none_iff {c : Codeword} {s : CodewordSet} : nearestValid c s = none ↔ s = 0 := by
  rw [nearestValid_eq_map, Option.map_eq_none_iff, minDistance_eq_none_iff]

/-- The search gives the minimum and all of its minimisers, and only that (R110, R111). -/
theorem nearestValid_eq_some_iff {c : Codeword} {s near : CodewordSet} {d : Nat} :
    nearestValid c s = some (d, near) ↔ NearestIn (fun t => inSet t s = true) c d near := by
  rw [nearestValid_eq_map, Option.map_eq_some_iff]
  constructor
  case mp =>
    rintro ⟨e, hmin, hpair⟩
    obtain ⟨rfl, rfl⟩ := Prod.mk.inj hpair
    obtain ⟨hachieved, hminimal⟩ := minDistance_eq_some_iff.1 hmin
    exact ⟨hachieved, hminimal, fun _ => inSet_atDistance⟩
  case mpr =>
    rintro ⟨hachieved, hminimal, hexact⟩
    have hnear : atDistance c s d = near :=
      set_ext fun t => Bool.eq_iff_iff.2 (inSet_atDistance.trans (hexact t).symm)
    exact ⟨d, minDistance_eq_some_iff.2 ⟨hachieved, hminimal⟩, by rw [hnear]⟩

/-! ### What a nearest set says -/

namespace NearestIn

variable {source : Codeword → Prop} {c : Codeword} {d : Nat} {near : CodewordSet} (h : NearestIn source c d near)
include h

theorem dist_le : d ≤ 10 := by
  obtain ⟨t, _, rfl⟩ := h.achieved
  exact hamming_le c t

theorem dist_eq_zero_iff : d = 0 ↔ source c := by
  constructor
  case mp =>
    rintro rfl
    obtain ⟨t, ht, hzero⟩ := h.achieved
    rwa [hamming_eq_zero_iff.1 hzero]
  case mpr =>
    intro hc
    have hle := h.minimal c hc
    rwa [hamming_eq_zero_iff.2 rfl, Nat.le_zero] at hle

/-- At distance 0 the codeword is its own only neighbour. -/
theorem inSet_iff_eq_of_dist_eq_zero (hd : d = 0) (t : Codeword) : inSet t near = true ↔ t = c := by
  rw [h.exact, hd, hamming_eq_zero_iff]
  constructor
  case mp => exact fun ⟨_, heq⟩ => heq.symm
  case mpr => rintro rfl; exact ⟨h.dist_eq_zero_iff.1 hd, rfl⟩

theorem card_pos : 0 < card near := by
  obtain ⟨t, ht⟩ := h.achieved
  exact List.length_pos_of_mem ((mem_members t near).2 ((h.exact t).2 ht))

/-- The distance fits its response field (log 18). -/
theorem toNat_dist : (BitVec.ofNat 4 d).toNat = d := by
  have hle := h.dist_le
  rw [BitVec.toNat_ofNat, Nat.mod_eq_of_lt (by omega)]

end NearestIn

/-- Settles O55: the search is characterised by `nearestValid_eq_some_iff`, and distance 0 by the Hamming distance. -/
theorem nearestValidIsExact : Obligations.NearestValidIsExact := by
  refine fun c S => ⟨fun d near => nearestValid_eq_some_iff, nearestValid_eq_none_iff, fun d near hsome => ?_⟩
  have hnear := nearestValid_eq_some_iff.1 hsome
  exact ⟨hnear.dist_le, hnear.dist_eq_zero_iff, hnear.inSet_iff_eq_of_dist_eq_zero⟩

end Sys2Proof.Machine
end

section
/-! The operations that search (spec R112, R114, R117, R119): the checks after the first operand, and the answer of an
operation that searches a set with an element in it. -/

namespace Sys2Proof.Machine

/-- The word of an operation that uses `aux` and leaves `b` at 0 (R45, R49). -/
theorem toNat_requestWord_zero_b (op aux : Nibble) (a : Field) :
    (requestWord op aux 0 a).toNat = op.toNat * 0x10000000 + aux.toNat * 0x1000000 + a.toNat := by
  simpa using toNat_requestWord op aux 0 a

/-- The unused field and the check after it report the same cause (R127). -/
theorem unusedField_bind_badAux {α β : Type} {p : Prop} [Decidable p] (b : Field) (v : α) (k : α → Except Cause β) :
    (unusedField b >>= fun _ => (if p then .error .badAux else .ok v) >>= k) =
      if b ≠ 0 ∨ p then .error .badAux else k v := by
  rw [unusedField_eq]
  by_cases hb : b = 0
  case neg => rw [if_neg hb, error_bind, if_pos (.inl hb)]
  case pos =>
    rw [if_pos hb, ok_bind]
    by_cases hp : p
    · rw [if_pos hp, error_bind, if_pos (.inr hp)]
    · rw [if_neg hp, ok_bind, if_neg (not_or.2 ⟨not_not.2 hb, hp⟩)]

/-- The search refuses only the empty set (R112). -/
theorem searchNearest_of_mem {c t : Codeword} {S : CodewordSet} (ht : inSet t S = true) :
    ∃ d near, searchNearest c S = .ok (d, near) ∧ NearestIn (fun t => inSet t S = true) c d near := by
  have hsome : nearestValid c S ≠ none := fun hnone => by
    rw [nearestValid_eq_none_iff.1 hnone] at ht
    simp at ht
  obtain ⟨⟨d, near⟩, hr⟩ := Option.ne_none_iff_exists'.1 hsome
  exact ⟨d, near, searchNearest_of_some hr, nearestValid_eq_some_iff.1 hr⟩

/-- An operation that ends in a search of a set with an element in it answers what the search finds; the distance is given
as the response field that holds it. -/
theorem answersWith_of_search {s : State} {i : Instr} {c : Codeword} {S : CodewordSet} {source : Codeword → Prop}
    {body : Nat × CodewordSet → Response} (hF : fsrF s.fsr = false) (hsource : ∀ t, inSet t S = true ↔ source t)
    (hne : ∃ t, source t) (hres : resultOf s.config i = searchNearest c S >>= fun r => .ok (body r)) :
    ∃ (dist : BitVec 4) (near : CodewordSet),
      NearestIn source c dist.toNat near ∧ AnswersWith i s (body (dist.toNat, near)) := by
  obtain ⟨t, ht⟩ := hne
  obtain ⟨d, near, hsearch, hnear⟩ := searchNearest_of_mem (c := c) ((hsource t).2 ht)
  rw [hsearch, ok_bind] at hres
  simp only [hsource] at hnear
  refine ⟨BitVec.ofNat 4 d, near, ?_, ?_⟩ <;> rw [hnear.toNat_dist]
  · exact hnear
  · exact answersWith_of_resultOf hF hres

theorem nearestBody_toNat (dist : BitVec 4) (near : CodewordSet) :
    nearestBody dist.toNat near = { Response.blank with dist := dist, set := near, n := sizeField near } := by
  rw [nearestBody, BitVec.ofNat_toNat, BitVec.setWidth_eq]

/-! ### The sets that are searched have elements -/

theorem exists_isData (cfg : Config) : ∃ t, IsData cfg t := by
  rcases encodeByte_cases cfg.balPolarity 0 with hlist | hlist | hlist <;>
    exact ⟨_, 0, hlist ▸ List.mem_cons_self⟩

theorem exists_isControl (cfg : Config) : ∃ t, IsControl cfg t := ⟨_, false, false, rfl⟩

/-- The set a selector names (R113). -/
theorem inSet_selectedSet (cfg : Config) (aux : Nibble) (t : Codeword) :
    inSet t (selectedSet cfg aux) = true ↔
      (aux.getLsbD 0 = true ∧ IsData cfg t) ∨ (aux.getLsbD 1 = true ∧ IsControl cfg t) := by
  rw [selectedSet, inSet_or, Bool.or_eq_true, IsData, IsControl, ← inSet_dataSet, ← inSet_ctrlSet]
  cases aux.getLsbD 0 <;> cases aux.getLsbD 1 <;> simp

/-- A legal selector includes DATA or CTRL. -/
theorem exists_selected (cfg : Config) {aux : Nibble} (hne : aux ≠ 0) (hle : aux.toNat ≤ 3) :
    ∃ t, (aux.getLsbD 0 = true ∧ IsData cfg t) ∨ (aux.getLsbD 1 = true ∧ IsControl cfg t) := by
  have hbits : ∀ x : Nibble, x ≠ 0 → x.toNat ≤ 3 → x.getLsbD 0 = true ∨ x.getLsbD 1 = true := by decide
  rcases hbits aux hne hle with hdata | hctrl
  · exact (exists_isData cfg).imp fun _ ht => .inl ⟨hdata, ht⟩
  · exact (exists_isControl cfg).imp fun _ ht => .inr ⟨hctrl, ht⟩

end Sys2Proof.Machine
end

section
/-! `NVS` (spec R114): the result of the operation in one equation. -/

namespace Sys2Proof.Machine

/-- The checks of `NVS` in order: the width of the codeword, then the unused field and the selector (R114). -/
theorem nvsResult_eq (cfg : Config) (aux : Nibble) (b a : Field) :
    nvsResult cfg aux b a =
      if a.toNat > 1023 then .error .cwWidth
      else if b ≠ 0 ∨ aux = 0 ∨ aux.toNat > 3 then .error .badAux
      else searchNearest (BitVec.ofNat 10 a.toNat) (selectedSet cfg aux) >>= fun r => .ok (nearestBody r.1 r.2) := by
  rw [nvsResult, codewordOperand_eq, selectorOperand_eq]
  by_cases ha : a.toNat ≤ 1023
  case neg => rw [if_neg ha, error_bind, if_pos (Nat.lt_of_not_le ha)]
  case pos =>
    rw [if_pos ha, ok_bind, if_neg (Nat.not_lt.2 ha), unusedField_bind_badAux]
    rfl

/-- Settles O28: each clause is one branch of `nvsResult_eq`; a legal selector never names the empty set. -/
theorem nvsAnswersNearestSet : Obligations.NvsAnswersNearestSet := by
  intro s aux b a hF
  have hres : resultOf s.config (.nvs aux b a) = nvsResult s.config aux b a := rfl
  rw [nvsResult_eq] at hres
  refine ⟨toNat_requestWord_zero_b 0x5 aux a, fun hwide => ?width, fun ha hbad => ?badAux, fun ha hb hne hle => ?answer⟩
  case width =>
    rw [if_pos hwide] at hres
    exact takesFault_of_resultOf hF hres
  case badAux =>
    rw [if_neg (Nat.not_lt.2 ha), if_pos hbad] at hres
    exact takesFault_of_resultOf hF hres
  case answer =>
    rw [if_neg (Nat.not_lt.2 ha), if_neg (by simpa [hb, hle] using hne)] at hres
    obtain ⟨dist, near, hnear, hanswer⟩ :=
      answersWith_of_search hF (inSet_selectedSet s.config aux) (exists_selected s.config hne hle) hres
    rw [nearestBody_toNat] at hanswer
    exact ⟨dist, sizeField near, near, hnear, toNat_sizeField near, hanswer⟩

end Sys2Proof.Machine
end

section
/-! `FCL` (spec R115, R117): when each class is the class of a codeword, and the result of the operation in one equation. -/

namespace Sys2Proof.Machine

/-! ### The classes -/

theorem classCode_injective : Function.Injective classCode := by
  intro x y
  cases x <;> cases y <;> decide

/-- Each class by its condition: the conditions of R115 exclude each other and leave nothing out. -/
theorem forbiddenClass_eq_iff (sym : Symbol) (d size : Nat) :
    (forbiddenClass sym d size = .notForbidden ↔ sym ≠ .forbidden) ∧
    (forbiddenClass sym d size = .unique ↔ sym = .forbidden ∧ d = 1 ∧ size = 1) ∧
    (forbiddenClass sym d size = .ambiguous ↔ sym = .forbidden ∧ d = 1 ∧ size ≠ 1) ∧
    (forbiddenClass sym d size = .genuine ↔ sym = .forbidden ∧ d ≠ 1) := by
  rw [forbiddenClass]
  by_cases hsym : sym = .forbidden
  case neg => simp [hsym]
  case pos =>
    by_cases hd : d = 1
    case neg => simp [hsym, hd]
    case pos => by_cases hsize : size = 1 <;> simp [hsym, hd, hsize]

/-! ### The operation -/

/-- The checks of `FCL` in order: the width of the codeword, then both unused fields (R117). -/
theorem fclResult_eq (cfg : Config) (aux : Nibble) (b a : Field) :
    fclResult cfg aux b a =
      if a.toNat > 1023 then .error .cwWidth
      else if b ≠ 0 ∨ aux ≠ 0 then .error .badAux
      else searchNearest (BitVec.ofNat 10 a.toNat) (validSet cfg) >>= fun r =>
        .ok { nearestBody r.1 r.2 with
          fclass := classCode (forbiddenClass (classify cfg (BitVec.ofNat 10 a.toNat)) r.1 (card r.2)) } := by
  rw [fclResult, codewordOperand_eq]
  by_cases ha : a.toNat ≤ 1023
  case neg => rw [if_neg ha, error_bind, if_pos (Nat.lt_of_not_le ha)]
  case pos =>
    rw [if_pos ha, ok_bind, if_neg (Nat.not_lt.2 ha), unusedField_bind_unusedAux]
    rfl

/-- A codeword at distance 0 from VALID is not forbidden (R115). -/
theorem dist_pos_of_forbidden {cfg : Config} {c : Codeword} {d : Nat} {near : CodewordSet}
    (h : NearestIn (fun t => IsData cfg t ∨ IsControl cfg t) c d near) (hforb : classify cfg c = .forbidden) : 0 < d :=
  Nat.pos_of_ne_zero fun hzero =>
    (inSet_validSet_iff_classify cfg c).1 ((inSet_validSet cfg c).2 (h.dist_eq_zero_iff.1 hzero)) hforb

/-- Settles O29: each fault is one branch of `fclResult_eq`; a forbidden codeword is at distance 1 or more and has a
nearest codeword, so the negated conditions of `forbiddenClass_eq_iff` are lower bounds. -/
theorem fclAnswersClass : Obligations.FclAnswersClass := by
  intro s aux b a hF
  have hres : resultOf s.config (.fcl aux b a) = fclResult s.config aux b a := rfl
  rw [fclResult_eq] at hres
  refine ⟨toNat_requestWord 0x6 0 0 a, fun hwide => ?width, fun ha hunused => ?unused, fun ha hb haux => ?answer⟩
  case width =>
    rw [if_pos hwide] at hres
    exact takesFault_of_resultOf hF hres
  case unused =>
    rw [if_neg (Nat.not_lt.2 ha), if_pos hunused] at hres
    exact takesFault_of_resultOf hF hres
  case answer =>
    rw [if_neg (Nat.not_lt.2 ha), if_neg (by simp [hb, haux])] at hres
    obtain ⟨dist, near, hnear, hanswer⟩ :=
      answersWith_of_search hF (inSet_validSet s.config) ((exists_isData s.config).imp fun _ => .inl) hres
    rw [nearestBody_toNat] at hanswer
    obtain ⟨hnot, hunique, hambiguous, hgenuine⟩ :=
      forbiddenClass_eq_iff (classify s.config (BitVec.ofNat 10 a.toNat)) dist.toNat (card near)
    have hdist : dist = 1 ↔ dist.toNat = 1 := BitVec.toNat_inj.symm
    have hsize : sizeField near = 1 ↔ card near = 1 := by rw [← toNat_sizeField]; exact BitVec.toNat_inj.symm
    have hpos := hnear.card_pos
    refine ⟨dist, sizeField near, near, _, hnear, toNat_sizeField near, ?notForbidden, ?unique, ?ambiguous, ?genuine,
      hanswer⟩
    case notForbidden => exact (classCode_injective.eq_iff (b := .notForbidden)).trans hnot
    case unique =>
      rw [hdist, hsize]
      exact (classCode_injective.eq_iff (b := .unique)).trans hunique
    case ambiguous =>
      have hmore : card near ≠ 1 ↔ 2 ≤ card near := by omega
      rw [hdist, toNat_sizeField, ← hmore]
      exact (classCode_injective.eq_iff (b := .ambiguous)).trans hambiguous
    case genuine =>
      refine (classCode_injective.eq_iff (b := .genuine)).trans (hgenuine.trans (and_congr_right fun hforb => ?_))
      have hfar := dist_pos_of_forbidden hnear hforb
      omega

end Sys2Proof.Machine
end

section
/-! `ROB` (spec R118, R119): the result of the operation in one equation. -/

namespace Sys2Proof.Machine

/-- The checks of `ROB` in order: the range of the pair, then the unused field and the rotation count (R119). -/
theorem robResult_eq (cfg : Config) (aux : Nibble) (b a : Field) :
    robResult cfg aux b a =
      if a.toNat > 3 then .error .ctrlPair
      else if b ≠ 0 ∨ aux.toNat > 9 then .error .badAux
      else searchNearest (rotl aux.toNat (ctrlForward cfg.ctrlTable (a.getLsbD 0) (a.getLsbD 1)))
          (dataSet cfg.balPolarity) >>= fun r =>
        .ok { nearestBody r.1 r.2 with
          cw0 := rotl aux.toNat (ctrlForward cfg.ctrlTable (a.getLsbD 0) (a.getLsbD 1)) } := by
  rw [robResult, pairOperand_eq, rotationOperand_eq]
  by_cases ha : a.toNat ≤ 3
  case neg => rw [if_neg ha, error_bind, if_pos (Nat.lt_of_not_le ha)]
  case pos =>
    rw [if_pos ha, ok_bind, if_neg (Nat.not_lt.2 ha), unusedField_bind_badAux, rotatedControl, romCtrlFwd_ofNat_toNat]
    rfl

/-- Settles O30: each clause is one branch of `robResult_eq`; some codeword is a data codeword in every configuration. -/
theorem robAnswersRotatedDistance : Obligations.RobAnswersRotatedDistance := by
  intro s aux b a hF
  have hres : resultOf s.config (.rob aux b a) = robResult s.config aux b a := rfl
  rw [robResult_eq] at hres
  refine ⟨toNat_requestWord_zero_b 0x7 aux a, fun hwide => ?pair, fun ha hbad => ?badAux, fun ha hb hle => ?answer⟩
  case pair =>
    rw [if_pos hwide] at hres
    exact takesFault_of_resultOf hF hres
  case badAux =>
    rw [if_neg (Nat.not_lt.2 ha), if_pos hbad] at hres
    exact takesFault_of_resultOf hF hres
  case answer =>
    rw [if_neg (Nat.not_lt.2 ha), if_neg (by simp [hb, hle])] at hres
    obtain ⟨dist, near, hnear, hanswer⟩ :=
      answersWith_of_search hF (inSet_dataSet s.config.balPolarity) (exists_isData s.config) hres
    rw [nearestBody_toNat] at hanswer
    exact ⟨dist, sizeField near, near, hnear, toNat_sizeField near, hanswer⟩

end Sys2Proof.Machine
end

section
/-! The faulted state (spec R129): no input but reset is looked at, and nothing but reset leaves it. -/

namespace Sys2Proof.Machine

/-- While `F` is 1 every instruction gets the fault response, and `FSR` and `FREQ` stay (R129). -/
theorem notServed_of_faulted {s : State} (i : Instr) (hF : fsrF s.fsr = true) : NotServed i s :=
  exec_of_faulted i hF

/-- Reset is the only input that is no instruction (R143). -/
theorem exists_decodeInput (cfg : Config) {u : HostInput} (hu : u ≠ .reset) : ∃ i, decodeInput cfg u = some i := by
  cases u with
  | request w => exact ⟨decodeRequest w, rfl⟩
  | codeword c => exact ⟨decodeCodeword cfg c, rfl⟩
  | reset => exact absurd rfl hu

/-- A faulted core answers whatever it takes but reset with the fault response. -/
theorem step_of_faulted {s : State} {u : HostInput} {rest : List HostInput} (hF : fsrF s.fsr = true)
    (hpending : s.pending = u :: rest) (hu : u ≠ .reset) :
    step s = .next (answerFaulted { s with pending := rest }) := by
  obtain ⟨i, hi⟩ := exists_decodeInput s.config hu
  rw [stepRunsDecodedInstruction s u rest i hpending hi]
  exact exec_of_faulted i hF

/-- With nothing presented the core holds its state (log 5). -/
theorem step_of_pending_nil {s : State} (h : s.pending = []) : step s = .next s := by
  unfold step takeStep
  rw [h]

/-- A step of a faulted core that takes no reset leaves `FSR` as it is. -/
theorem fsr_of_step_of_faulted {s t : State} (hF : fsrF s.fsr = true) (hstep : step s = .next t)
    (hreset : ∀ rest, s.pending ≠ .reset :: rest) : t.fsr = s.fsr := by
  cases hpending : s.pending with
  | nil =>
    rw [step_of_pending_nil hpending] at hstep
    obtain rfl := Host.Outcome.next.inj hstep
    rfl
  | cons u rest =>
    have hu : u ≠ .reset := by
      rintro rfl
      exact hreset rest hpending
    rw [step_of_faulted hF hpending hu] at hstep
    obtain rfl := Host.Outcome.next.inj hstep
    rfl

/-- Settles O13: every instruction and every input but reset meets the same fault response, which keeps `F` at 1. -/
theorem faultedStateIsAbsorbing : Obligations.FaultedStateIsAbsorbing := by
  refine ⟨fun s i hF => notServed_of_faulted i hF, fun s u rest hF hpending hu => step_of_faulted hF hpending hu,
    fun s t hF hstep hleft => ?_⟩
  by_contra hreset
  rw [fsr_of_step_of_faulted hF hstep (not_exists.1 hreset), hF] at hleft
  cases hleft

end Sys2Proof.Machine
end

section
/-! The order of the checks (spec R127, R130): the cause that the result of each instruction reports is the first failed
check of its row. -/

namespace Sys2Proof.Machine

/-! ### The cause of a result -/

/-- The cause a result reports, none if it is an answer. -/
def causeOf {α : Type} : Except Cause α → Option Cause
  | .error cause => some cause
  | .ok _ => none

@[simp] theorem causeOf_error {α : Type} (cause : Cause) : causeOf (.error cause : Except Cause α) = some cause := rfl

@[simp] theorem causeOf_ok {α : Type} (v : α) : causeOf (.ok v : Except Cause α) = none := rfl

theorem causeOf_eq_some_iff {α : Type} {res : Except Cause α} {cause : Cause} :
    causeOf res = some cause ↔ res = .error cause := by
  cases res <;> simp

theorem causeOf_eq_none_iff {α : Type} {res : Except Cause α} : causeOf res = none ↔ ∃ v, res = .ok v := by
  cases res <;> simp

/-- One check of a result against one row of the table: if it fails it is the cause reported, and if it passes the checks
after it decide. -/
theorem causeOf_check {α : Type} {p : Prop} [Decidable p] {cause : Cause} {res : Except Cause α}
    {checks : List (Bool × Cause)} (hrest : ¬ p → causeOf res = firstFailed checks) :
    causeOf (if p then .error cause else res) = firstFailed ((decide p, cause) :: checks) := by
  by_cases hp : p
  case pos => simp [hp, firstFailed]
  case neg => simp [hp, firstFailed, hrest hp]

/-- A check that stands for two with the same cause is the first of them, then the second. -/
theorem causeOf_check_or {α : Type} {p q : Prop} [Decidable p] [Decidable q] {cause : Cause} {res : Except Cause α}
    {checks : List (Bool × Cause)}
    (hrest : ¬ p → causeOf (if q then .error cause else res) = firstFailed checks) :
    causeOf (if p ∨ q then .error cause else res) = firstFailed ((decide p, cause) :: checks) := by
  rw [ite_or]
  exact causeOf_check hrest

/-- A search of a set with an element in it reports no cause (R112). -/
theorem causeOf_search {α : Type} {c : Codeword} {S : CodewordSet} {body : Nat × CodewordSet → α}
    (hne : ∃ t, inSet t S = true) : causeOf (searchNearest c S >>= fun r => .ok (body r)) = none := by
  obtain ⟨t, ht⟩ := hne
  obtain ⟨d, near, hsearch, -⟩ := searchNearest_of_mem (c := c) ht
  rw [hsearch, ok_bind, causeOf_ok]

/-! ### Each operation: its checks one by one, then the answer -/

theorem causeOf_encResult (cfg : Config) (aux : Nibble) (b a : Field) :
    causeOf (encResult cfg aux b a) = firstBrokenCheck (.enc aux b a) := by
  rw [encResult_eq]
  exact causeOf_check fun _ => causeOf_check_or fun _ => causeOf_check fun _ => causeOf_ok _

theorem causeOf_ctlResult (cfg : Config) (aux : Nibble) (b a : Field) :
    causeOf (ctlResult cfg aux b a) = firstBrokenCheck (.ctl aux b a) := by
  rw [ctlResult_eq]
  exact causeOf_check fun _ => causeOf_check_or fun _ => causeOf_check fun _ => causeOf_ok _

theorem causeOf_clsResult (cfg : Config) (aux : Nibble) (b a : Field) :
    causeOf (clsResult cfg aux b a) = firstBrokenCheck (.cls aux b a) := by
  rw [clsResult_eq]
  exact causeOf_check fun _ => causeOf_check_or fun _ => causeOf_check fun _ => causeOf_ok _

theorem causeOf_hamResult (aux : Nibble) (b a : Field) :
    causeOf (hamResult aux b a) = firstBrokenCheck (.ham aux b a) := by
  rw [hamResult_eq]
  exact causeOf_check_or fun _ => causeOf_check fun _ => causeOf_check fun _ => causeOf_ok _

/-- The search is reached only with a legal selector, which names a set with an element in it. -/
theorem causeOf_nvsResult (cfg : Config) (aux : Nibble) (b a : Field) :
    causeOf (nvsResult cfg aux b a) = firstBrokenCheck (.nvs aux b a) := by
  rw [nvsResult_eq]
  exact causeOf_check fun _ => causeOf_check_or fun _ => causeOf_check_or fun hne => causeOf_check fun hle =>
    causeOf_search ((exists_selected cfg hne (Nat.le_of_not_lt hle)).imp fun t => (inSet_selectedSet cfg aux t).2)

theorem causeOf_fclResult (cfg : Config) (aux : Nibble) (b a : Field) :
    causeOf (fclResult cfg aux b a) = firstBrokenCheck (.fcl aux b a) := by
  rw [fclResult_eq]
  exact causeOf_check fun _ => causeOf_check_or fun _ => causeOf_check fun _ =>
    causeOf_search ((exists_isData cfg).imp fun t ht => (inSet_validSet cfg t).2 (.inl ht))

theorem causeOf_robResult (cfg : Config) (aux : Nibble) (b a : Field) :
    causeOf (robResult cfg aux b a) = firstBrokenCheck (.rob aux b a) := by
  rw [robResult_eq]
  exact causeOf_check fun _ => causeOf_check_or fun _ => causeOf_check fun _ =>
    causeOf_search ((exists_isData cfg).imp fun t => (inSet_dataSet cfg.balPolarity t).2)

theorem causeOf_cntResult (cfg : Config) (aux : Nibble) (b a : Field) :
    causeOf (cntResult cfg aux b a) = firstBrokenCheck (.cnt aux b a) := by
  rw [cntResult_eq]
  exact causeOf_check_or fun _ => causeOf_check_or fun _ => causeOf_check fun _ => causeOf_ok _

/-! ### Every instruction -/

/-- An instruction reports the cause of its first broken check. A reserved code is `ILLEGAL_OP` (R48), and a bare codeword
breaks no check (log 7). -/
theorem causeOf_resultOf (cfg : Config) (i : Instr) : causeOf (resultOf cfg i) = firstBrokenCheck i := by
  cases i with
  | enc aux b a => exact causeOf_encResult cfg aux b a
  | ctl aux b a => exact causeOf_ctlResult cfg aux b a
  | cls aux b a => exact causeOf_clsResult cfg aux b a
  | ham aux b a => exact causeOf_hamResult aux b a
  | nvs aux b a => exact causeOf_nvsResult cfg aux b a
  | fcl aux b a => exact causeOf_fclResult cfg aux b a
  | rob aux b a => exact causeOf_robResult cfg aux b a
  | cnt aux b a => exact causeOf_cntResult cfg aux b a
  | reserved0 | reserved9 | reservedA | reservedB | reservedC | reservedD | reservedE | reservedF =>
    exact causeOf_error .illegalOp
  | dataDirect | dataInverted | ctrl00 | ctrl10 | ctrl01 | ctrl11 | forbidden => exact causeOf_ok _

/-- Settles O14: the cause of the result is the table's, an error is taken as a fault and anything else is answered. -/
theorem firstFailedCheckIsReported : Obligations.FirstFailedCheckIsReported := by
  refine ⟨fun s i hF => notServed_of_faulted i hF, fun s i cause hF hbroken => ?fault, fun s i hF hnone => ?answer,
    by decide⟩
  case fault =>
    rw [← causeOf_resultOf s.config] at hbroken
    exact takesFault_of_resultOf hF (causeOf_eq_some_iff.1 hbroken)
  case answer =>
    rw [← causeOf_resultOf s.config] at hnone
    obtain ⟨body, hbody⟩ := causeOf_eq_none_iff.1 hnone
    exact ⟨body, answersWith_of_resultOf hF hbody⟩

end Sys2Proof.Machine
end

section
/-! Codeword formats and the round trips of the encoding (spec R43, R45, R46): the format of a codeword from its symbol, the
data and the control formats each said once, and what decoding and encoding keep. -/

namespace Sys2Proof.Machine

/-! ### The formats -/

/-- The data format with bit 9 `i` (R43): DATA_DIRECT or DATA_INVERTED. -/
def dataFormat : Bool → Bool → Byte → Instr
  | false => .dataDirect
  | true => .dataInverted

/-- The control format of a pair (R43). -/
def controlFormat : Bool → Bool → Instr
  | false, false => .ctrl00
  | true, false => .ctrl10
  | false, true => .ctrl01
  | true, true => .ctrl11

@[simp] theorem encode_dataFormat (cfg : Config) (i x : Bool) (p : Byte) :
    encode cfg (dataFormat i x p) = .codeword (joinCodeword p x i) := by
  cases i <;> rfl

@[simp] theorem wellFormed_dataFormat (cfg : Config) (i x : Bool) (p : Byte) :
    wellFormed cfg (dataFormat i x p) = (romDataRev cfg (joinCodeword p x i)).isSome := by
  cases i <;> rfl

@[simp] theorem encode_controlFormat (cfg : Config) (c0 c1 : Bool) :
    encode cfg (controlFormat c0 c1) = .codeword (ctrlForward cfg.ctrlTable c0 c1) := by
  cases c0 <;> cases c1 <;> rfl

@[simp] theorem wellFormed_controlFormat (cfg : Config) (c0 c1 : Bool) :
    wellFormed cfg (controlFormat c0 c1) = (classify cfg (ctrlForward cfg.ctrlTable c0 c1) == .control c0 c1) := by
  cases c0 <;> cases c1 <;> rfl

/-! ### The format of a codeword, by its symbol -/

theorem decodeCodeword_of_data {cfg : Config} {c : Codeword} {d : Byte} (h : classify cfg c = .data d) :
    decodeCodeword cfg c = dataFormat (bitI c) (bitX c) (payloadOf c) := by
  unfold decodeCodeword
  rw [h]
  cases bitI c <;> rfl

theorem decodeCodeword_of_control {cfg : Config} {c : Codeword} {c0 c1 : Bool} (h : classify cfg c = .control c0 c1) :
    decodeCodeword cfg c = controlFormat c0 c1 := by
  unfold decodeCodeword
  rw [h]
  cases c0 <;> cases c1 <;> rfl

theorem decodeCodeword_of_forbidden {cfg : Config} {c : Codeword} (h : classify cfg c = .forbidden) :
    decodeCodeword cfg c = .forbidden c := by
  unfold decodeCodeword
  rw [h]

/-- A codeword is made of its payload and its two flag bits (R17). -/
theorem joinCodeword_fields (c : Codeword) : joinCodeword (payloadOf c) (bitX c) (bitI c) = c := by
  have hc := c.isLt
  have hX : (bitX c).toNat = c.toNat / 2 ^ 8 % 2 := Nat.toNat_testBit c.toNat 8
  have hI : (bitI c).toNat = c.toNat / 2 ^ 9 % 2 := Nat.toNat_testBit c.toNat 9
  apply BitVec.eq_of_toNat_eq
  simp only [joinCodeword, payloadOf, BitVec.toNat_ofNat, hX, hI]
  omega

/-! ### Decoding what is encoded -/

theorem decodeCodeword_joinCodeword {cfg : Config} {i x : Bool} {p : Byte}
    (h : (romDataRev cfg (joinCodeword p x i)).isSome = true) :
    decodeCodeword cfg (joinCodeword p x i) = dataFormat i x p := by
  obtain ⟨d, hd⟩ := Option.isSome_iff_exists.1 h
  rw [decodeCodeword_of_data (classify_eq_data.2 hd), bitI_joinCodeword, bitX_joinCodeword, payloadOf_joinCodeword]

/-- Settles O1: a request word gives its fields back, and a well-formed codeword format is the one its symbol selects. -/
theorem decodeEncodeAgree : Obligations.DecodeEncodeAgree := by
  intro cfg i hwf
  cases i with
  | enc aux b a | ctl aux b a | cls aux b a | ham aux b a | nvs aux b a | fcl aux b a | rob aux b a | cnt aux b a
  | reserved0 aux b a | reserved9 aux b a | reservedA aux b a | reservedB aux b a | reservedC aux b a
  | reservedD aux b a | reservedE aux b a | reservedF aux b a =>
    exact congrArg some (decodeRequest_requestWord _ aux b a)
  | dataDirect x p => exact congrArg some (decodeCodeword_joinCodeword (i := false) hwf)
  | dataInverted x p => exact congrArg some (decodeCodeword_joinCodeword (i := true) hwf)
  | ctrl00 | ctrl10 | ctrl01 | ctrl11 => exact congrArg some (decodeCodeword_of_control (beq_iff_eq.1 hwf))
  | forbidden v => exact congrArg some (decodeCodeword_of_forbidden (beq_iff_eq.1 hwf))

/-! ### Encoding what is decoded -/

/-- The row of an operation code is well formed and is encoded with that code, whatever the other fields hold. -/
theorem wellFormed_and_encode_decodeFields (cfg : Config) (op aux : Nibble) (b a : Field) :
    wellFormed cfg (decodeFields op.toNat aux b a) = true ∧
      encode cfg (decodeFields op.toNat aux b a) = .request (requestWord op aux b a) := by
  obtain ⟨k, hk, rfl⟩ : ∃ k < 16, op = BitVec.ofNat 4 k := ⟨op.toNat, op.isLt, by simp⟩
  interval_cases k <;> exact ⟨rfl, rfl⟩

theorem encode_decodeRequest (cfg : Config) (w : RequestWord) : encode cfg (decodeRequest w) = .request w := by
  rw [decodeRequest, (wellFormed_and_encode_decodeFields cfg _ _ _ _).2, requestWord_fields]

/-- What a codeword decodes to is well formed and is encoded as the codeword, by the three kinds of symbol. -/
theorem wellFormed_and_encode_decodeCodeword (cfg : Config) (c : Codeword) :
    wellFormed cfg (decodeCodeword cfg c) = true ∧ encode cfg (decodeCodeword cfg c) = .codeword c := by
  cases hsym : classify cfg c with
  | data d =>
    rw [decodeCodeword_of_data hsym, wellFormed_dataFormat, encode_dataFormat, joinCodeword_fields,
      classify_eq_data.1 hsym]
    exact ⟨rfl, rfl⟩
  | control c0 c1 =>
    have hfwd : ctrlForward cfg.ctrlTable c0 c1 = c := ctrlForward_of_ctrlReverse (classify_eq_control.1 hsym).2
    rw [decodeCodeword_of_control hsym, wellFormed_controlFormat, encode_controlFormat, hfwd, hsym]
    exact ⟨beq_self_eq_true _, rfl⟩
  | forbidden =>
    rw [decodeCodeword_of_forbidden hsym]
    exact ⟨beq_iff_eq.2 hsym, rfl⟩

theorem wellFormed_decodeCodeword (cfg : Config) (c : Codeword) : wellFormed cfg (decodeCodeword cfg c) = true :=
  (wellFormed_and_encode_decodeCodeword cfg c).1

theorem encode_decodeCodeword (cfg : Config) (c : Codeword) : encode cfg (decodeCodeword cfg c) = .codeword c :=
  (wellFormed_and_encode_decodeCodeword cfg c).2

/-- Settles O2: request words by their fields, codewords by their symbols. -/
theorem encodeDecodeAgree : Obligations.EncodeDecodeAgree := by
  intro cfg u hu
  cases u with
  | request w =>
    exact ⟨decodeRequest w, rfl, (wellFormed_and_encode_decodeFields cfg _ _ _ _).1, encode_decodeRequest cfg w⟩
  | codeword c => exact ⟨decodeCodeword cfg c, rfl, wellFormed_decodeCodeword cfg c, encode_decodeCodeword cfg c⟩
  | reset => exact absurd rfl hu

end Sys2Proof.Machine
end

section
/-! The codeword formats against the registry (spec R43, R100, R102): which format each symbol has where the registry builds. -/

namespace Sys2Proof.Machine

/-- Where the table keeps its contract, each control codeword is classified as its pair (R102). -/
theorem LegalTable.classify_ctrlForward {cfg : Config} (h : LegalTable cfg) (c0 c1 : Bool) :
    classify cfg (ctrlForward cfg.ctrlTable c0 c1) = .control c0 c1 := by
  refine classify_eq_control.2 ⟨?_, ctrlReverse_ctrlForward h.distinct c0 c1⟩
  rw [romDataRev, ← Option.not_isSome_iff_eq_none, dataReverse_isSome, inSet_dataSet]
  exact h.apart (c0, c1) (mem_allPairs _)

/-- Settles O52: the reverse map of the data codewords is exact, and a build that succeeds has checked the contract. -/
theorem classifyRoundTrip : Obligations.ClassifyRoundTrip := fun _ =>
  ⟨fun _ _ hc => classify_of_mem_encodeByte hc, fun _ _ hsym => mem_of_dataReverse (classify_eq_data.1 hsym),
    fun hbuild => (legalTable_of_buildSucceeds hbuild).classify_ctrlForward⟩

theorem classify_eq_forbidden_iff (cfg : Config) (c : Codeword) :
    classify cfg c = .forbidden ↔ ¬ IsData cfg c ∧ ¬ IsControl cfg c := by
  rw [← not_or, ← inSet_validSet, inSet_validSet_iff_classify, not_not]

/-- The payload that a candidate of the base word holds when its bit 9 is `i` (R79). -/
def heldPayload : Bool → Byte → Byte
  | false, base => base
  | true, base => invert base

/-- A candidate with bit 9 `i` holds the base word in that form, and the byte's `X`. -/
theorem fields_of_mem_encodeByte {pol : BalPolarity} {d p : Byte} {x i : Bool}
    (h : joinCodeword p x i ∈ encodeByte pol d) : heldPayload i (baseWord d) = p ∧ flagX d = x := by
  have hX := bitX_of_mem_encodeByte h
  rw [bitX_joinCodeword] at hX
  have hbase := baseOf_of_mem_encodeByte h
  rw [baseOf, bitI_joinCodeword, payloadOf_joinCodeword] at hbase
  refine ⟨?_, hX.symm⟩
  rw [← hbase]
  cases i with
  | false => rfl
  | true => exact invert_invert p

theorem decodeCodeword_eq_dataFormat_iff {cfg : Config} {c : Codeword} {i x : Bool} {p : Byte} :
    decodeCodeword cfg c = dataFormat i x p ↔
      c = joinCodeword p x i ∧ ∃ d, heldPayload i (baseWord d) = p ∧ flagX d = x ∧ c ∈ encodeByte cfg.balPolarity d := by
  constructor
  case mp =>
    intro h
    have henc := encode_decodeCodeword cfg c
    have hwf := wellFormed_decodeCodeword cfg c
    rw [h, encode_dataFormat] at henc
    rw [h, wellFormed_dataFormat] at hwf
    obtain rfl := HostInput.codeword.inj henc
    obtain ⟨d, hd⟩ := Option.isSome_iff_exists.1 hwf
    have hmem := mem_of_dataReverse hd
    obtain ⟨hpayload, hX⟩ := fields_of_mem_encodeByte hmem
    exact ⟨rfl, d, hpayload, hX, hmem⟩
  case mpr =>
    rintro ⟨rfl, d, -, -, hmem⟩
    exact decodeCodeword_joinCodeword ((dataReverse_isSome _ _).2 ((inSet_dataSet _ _).2 ⟨d, hmem⟩))

theorem LegalTable.decodeCodeword_eq_controlFormat_iff {cfg : Config} (h : LegalTable cfg) {c : Codeword} {c0 c1 : Bool} :
    decodeCodeword cfg c = controlFormat c0 c1 ↔ c = ctrlForward cfg.ctrlTable c0 c1 := by
  constructor
  case mp =>
    intro hdec
    have henc := encode_decodeCodeword cfg c
    rw [hdec, encode_controlFormat] at henc
    exact (HostInput.codeword.inj henc).symm
  case mpr =>
    rintro rfl
    exact decodeCodeword_of_control (h.classify_ctrlForward c0 c1)

theorem decodeCodeword_eq_forbidden_iff {cfg : Config} {c v : Codeword} :
    decodeCodeword cfg c = .forbidden v ↔ v = c ∧ ¬ IsData cfg c ∧ ¬ IsControl cfg c := by
  rw [← classify_eq_forbidden_iff]
  constructor
  case mp =>
    intro hdec
    have henc := encode_decodeCodeword cfg c
    have hwf := wellFormed_decodeCodeword cfg c
    rw [hdec] at henc hwf
    obtain rfl := HostInput.codeword.inj henc
    exact ⟨rfl, beq_iff_eq.1 hwf⟩
  case mpr =>
    rintro ⟨rfl, hsym⟩
    exact decodeCodeword_of_forbidden hsym

/-- Settles O5: the data formats by bit 9, the control formats by the pair, and what has neither symbol is forbidden. -/
theorem codewordFormats : Obligations.CodewordFormats := by
  intro cfg c hbuild
  have hlegal := legalTable_of_buildSucceeds hbuild
  exact ⟨fun _ _ => decodeCodeword_eq_dataFormat_iff (i := false),
    fun _ _ => decodeCodeword_eq_dataFormat_iff (i := true),
    hlegal.decodeCodeword_eq_controlFormat_iff (c0 := false) (c1 := false),
    hlegal.decodeCodeword_eq_controlFormat_iff (c0 := true) (c1 := false),
    hlegal.decodeCodeword_eq_controlFormat_iff (c0 := false) (c1 := true),
    hlegal.decodeCodeword_eq_controlFormat_iff (c0 := true) (c1 := true), fun _ => decodeCodeword_eq_forbidden_iff⟩

end Sys2Proof.Machine
end

section
/-! Bare codewords (spec R43, R58, R101): an instruction that is encoded as a codeword answers the symbol of the codeword,
under the request word of `CLS` (log 7). -/

namespace Sys2Proof.Machine

theorem requestOf_of_encode_codeword {cfg : Config} {i : Instr} {c : Codeword} (h : encode cfg i = .codeword c) :
    requestOf cfg i = decRequest c := by
  unfold requestOf
  rw [h]

theorem resultOf_of_encode_codeword {cfg : Config} {i : Instr} {c : Codeword} (h : encode cfg i = .codeword c) :
    resultOf cfg i = .ok (symbolBody (classify cfg c)) := by
  cases i with
  | enc | ctl | cls | ham | nvs | fcl | rob | cnt | reserved0 | reserved9 | reservedA | reservedB | reservedC | reservedD
  | reservedE | reservedF => cases h
  | dataDirect | dataInverted | ctrl00 | ctrl10 | ctrl01 | ctrl11 | forbidden =>
    obtain rfl := HostInput.codeword.inj h
    rfl

/-- `CLS` of a codeword breaks no check (R58). -/
theorem clsResult_codeword (cfg : Config) (c : Codeword) :
    clsResult cfg 0 0 (BitVec.ofNat 12 c.toNat) = .ok (symbolBody (classify cfg c)) := by
  have hc := c.isLt
  have ha : (BitVec.ofNat 12 c.toNat).toNat = c.toNat := by rw [BitVec.toNat_ofNat, Nat.mod_eq_of_lt (by omega)]
  rw [clsResult_eq, ha, if_neg (by omega), if_neg (by simp), BitVec.ofNat_toNat, BitVec.setWidth_eq]

/-- Settles O34: both are `serve` of the same request word and the same symbol. -/
theorem bareCodewordActsAsCls : Obligations.BareCodewordActsAsCls := by
  intro s c
  have henc := encode_decodeCodeword s.config c
  rw [exec_eq_serve, requestOf_of_encode_codeword henc, resultOf_of_encode_codeword henc, ← clsResult_codeword]
  rfl

/-- An unfaulted core answers an instruction that is encoded as a codeword with the codeword's symbol. -/
theorem answersWith_symbol {s : State} {i : Instr} {c : Codeword} {sym : Symbol} (hF : fsrF s.fsr = false)
    (henc : encode s.config i = .codeword c) (hsym : classify s.config c = sym) : AnswersWith i s (symbolBody sym) :=
  answersWith_of_resultOf hF (by rw [resultOf_of_encode_codeword henc, hsym])

/-- Settles O33: each format is encoded as a codeword whose symbol the round trip of the classification gives. -/
theorem codewordFormatsAnswerSymbols : Obligations.CodewordFormatsAnswerSymbols := by
  intro s hF hbuild
  have hctrl := (legalTable_of_buildSucceeds hbuild).classify_ctrlForward
  exact ⟨fun d hd => answersWith_symbol hF rfl (classify_of_mem_encodeByte hd),
    fun d hd => answersWith_symbol hF rfl (classify_of_mem_encodeByte hd),
    answersWith_symbol hF rfl (hctrl false false), answersWith_symbol hF rfl (hctrl true false),
    answersWith_symbol hF rfl (hctrl false true), answersWith_symbol hF rfl (hctrl true true),
    fun v hdata hctrl => answersWith_symbol hF rfl ((classify_eq_forbidden_iff _ v).2 ⟨hdata, hctrl⟩)⟩

end Sys2Proof.Machine
end

section
/-! What a step can do (spec R10, R24, R25, R142), said once, and what each kind of step writes. -/

namespace Sys2Proof.Machine

/-- Everything a step can do: nothing is presented, reset is taken, or an instruction is taken and run. -/
theorem step_cases {s t : State} (h : step s = .next t) :
    (s.pending = [] ∧ t = s) ∨
    (∃ rest, s.pending = .reset :: rest ∧ t = applyReset { s with pending := rest }) ∨
    (∃ u rest i, s.pending = u :: rest ∧ decodeInput s.config u = some i ∧ exec i { s with pending := rest } = .next t) := by
  cases hpending : s.pending with
  | nil =>
    rw [step_of_pending_nil hpending] at h
    exact .inl ⟨rfl, (Host.Outcome.next.inj h).symm⟩
  | cons u rest =>
    by_cases hu : u = .reset
    case pos =>
      subst hu
      rw [step_of_reset hpending] at h
      exact .inr (.inl ⟨rest, rfl, (Host.Outcome.next.inj h).symm⟩)
    case neg =>
      obtain ⟨i, hi⟩ := exists_decodeInput s.config hu
      rw [stepRunsDecodedInstruction s u rest i hpending hi] at h
      exact .inr (.inr ⟨u, rest, i, rfl, hi, h⟩)

/-- What holds of a state and is kept by a step that answers a next state holds after any number of steps. -/
theorem run_of_step_keeps {P : State → Prop} (hstep : ∀ s, P s → ∃ t, step s = .next t ∧ P t) (k : Nat) {s : State}
    (hs : P s) : ∃ t, Host.Core.run Sys2Proof.core k s = .next t ∧ P t := by
  induction k generalizing s with
  | zero => exact ⟨s, rfl, hs⟩
  | succ k ih =>
    obtain ⟨t, ht, hPt⟩ := hstep s hs
    rw [run_succ ht]
    exact ih hPt

/-- An instruction that faults was presented as a request word, the one the fault records: a codeword breaks no check. -/
theorem request_of_resultOf_error {cfg : Config} {u : HostInput} {i : Instr} {cause : Cause}
    (hdec : decodeInput cfg u = some i) (hres : resultOf cfg i = .error cause) : u = .request (requestOf cfg i) := by
  cases u with
  | request w =>
    obtain rfl := Option.some.inj hdec
    unfold requestOf
    rw [encode_decodeRequest]
  | codeword c =>
    obtain rfl := Option.some.inj hdec
    rw [resultOf_of_encode_codeword (encode_decodeCodeword cfg c)] at hres
    cases hres
  | reset => cases hdec

/-- Settles O17: of the things a step can do, only reset and a fault write `FSR` or `FREQ`. -/
theorem onlyFaultsAndResetWriteTheLatch : Obligations.OnlyFaultsAndResetWriteTheLatch := by
  intro s t hstep
  rcases step_cases hstep with ⟨-, rfl⟩ | ⟨rest, hpending, rfl⟩ | ⟨u, rest, i, hpending, hdec, hexec⟩
  case inl => exact ⟨rfl, fun hchange => by simp at hchange⟩
  case inr.inl => exact ⟨applyReset_config _, fun _ => .inl ⟨rest, hpending⟩⟩
  case inr.inr =>
    rcases exec_cases i { s with pending := rest } with ⟨-, h⟩ | ⟨hF, cause, hres, h⟩ | ⟨-, body, -, h⟩ <;>
      obtain rfl := Host.Outcome.next.inj (hexec.symm.trans h)
    case inl => exact ⟨rfl, fun hchange => by simp at hchange⟩
    case inr.inl =>
      refine ⟨rfl, fun _ => .inr ⟨hF, fsrF_faultedFsr cause, requestOf s.config i, rest, ?_, rfl⟩⟩
      rw [hpending, request_of_resultOf_error hdec hres]
    case inr.inr => exact ⟨rfl, fun hchange => by simp at hchange⟩

end Sys2Proof.Machine
end

section
/-! The ranges of the response fields (spec R50, R51): what every result that is no error keeps. -/

namespace Sys2Proof.Machine

/-- The fields of a result are in the ranges of R50, and the tag is one of R51. -/
structure ResultInRange (r : Response) : Prop where
  n_le : r.n.toNat ≤ 1024
  n2_le : r.n2.toNat ≤ 1024
  n3_le : r.n3.toNat ≤ 1024
  tag_ne : r.tag ≠ 3
  dist_le : r.dist.toNat ≤ 10

/-- A size field that is not produced is 0. -/
theorem zero_size_le : (0 : BitVec 11).toNat ≤ 1024 := Nat.zero_le _

theorem zero_tag_ne : (0 : BitVec 2) ≠ 3 := by decide

theorem zero_dist_le : (0 : BitVec 4).toNat ≤ 10 := Nat.zero_le _

theorem toNat_sizeField_le (s : CodewordSet) : (sizeField s).toNat ≤ 1024 :=
  (toNat_sizeField s).trans_le (card_le s)

theorem inRange_symbolBody (sym : Symbol) : ResultInRange (symbolBody sym) :=
  ⟨zero_size_le, zero_size_le, zero_size_le, symbolTag_ne_three sym, zero_dist_le⟩

theorem inRange_candidateBody (pol : BalPolarity) (d : Byte) : ResultInRange (candidateBody (encodeByte pol d)) := by
  have hn : (BitVec.ofNat 11 (encodeByte pol d).length).toNat ≤ 1024 := by
    rcases length_encodeByte pol d with h | h <;> rw [h] <;> decide
  exact ⟨hn, zero_size_le, zero_size_le, zero_tag_ne, zero_dist_le⟩

theorem inRange_nearestBody {d : Nat} (hd : d ≤ 10) (near : CodewordSet) : ResultInRange (nearestBody d near) := by
  have hdist : (BitVec.ofNat 4 d).toNat ≤ 10 := by rwa [BitVec.toNat_ofNat, Nat.mod_eq_of_lt (by omega)]
  exact ⟨toNat_sizeField_le near, zero_size_le, zero_size_le, zero_tag_ne, hdist⟩

/-- A result with a check in front is an answer only if the check passes. -/
theorem ok_of_check {α : Type} {p : Prop} [Decidable p] {cause : Cause} {res : Except Cause α} {v : α}
    (h : (if p then .error cause else res) = .ok v) : res = .ok v := by
  split at h
  case isTrue => cases h
  case isFalse => exact h

/-- A search that answers has found a distance of at most 10 (R110). -/
theorem exists_of_search_ok {α : Type} {c : Codeword} {S : CodewordSet} {body : Nat × CodewordSet → α} {v : α}
    (h : (searchNearest c S >>= fun r => .ok (body r)) = .ok v) : ∃ d near, d ≤ 10 ∧ body (d, near) = v := by
  unfold searchNearest at h
  cases hr : nearestValid c S with
  | none =>
    rw [hr] at h
    cases h
  | some r =>
    rw [hr] at h
    exact ⟨r.1, r.2, (nearestValid_eq_some_iff.1 hr).dist_le, Except.ok.inj h⟩

/-- Every answer of an instruction is in range: each operation's, once its checks have passed. -/
theorem inRange_of_resultOf {cfg : Config} {i : Instr} {body : Response} (h : resultOf cfg i = .ok body) :
    ResultInRange body := by
  cases i with
  | enc aux b a =>
    obtain rfl := Except.ok.inj (ok_of_check (ok_of_check ((encResult_eq ..).symm.trans h)))
    exact inRange_candidateBody _ _
  | ctl aux b a =>
    obtain rfl := Except.ok.inj (ok_of_check (ok_of_check ((ctlResult_eq ..).symm.trans h)))
    exact ⟨zero_size_le, zero_size_le, zero_size_le, zero_tag_ne, zero_dist_le⟩
  | cls aux b a =>
    obtain rfl := Except.ok.inj (ok_of_check (ok_of_check ((clsResult_eq ..).symm.trans h)))
    exact inRange_symbolBody _
  | ham aux b a =>
    obtain rfl := Except.ok.inj (ok_of_check (ok_of_check ((hamResult_eq ..).symm.trans h)))
    exact ⟨zero_size_le, zero_size_le, zero_size_le, zero_tag_ne, (toNat_dist_hamming _ _).trans_le (hamming_le _ _)⟩
  | nvs aux b a =>
    obtain ⟨d, near, hd, rfl⟩ := exists_of_search_ok (ok_of_check (ok_of_check ((nvsResult_eq ..).symm.trans h)))
    exact inRange_nearestBody hd near
  | fcl aux b a =>
    obtain ⟨d, near, hd, rfl⟩ := exists_of_search_ok (ok_of_check (ok_of_check ((fclResult_eq ..).symm.trans h)))
    obtain ⟨hn, hn2, hn3, htag, hdist⟩ := inRange_nearestBody hd near
    exact ⟨hn, hn2, hn3, htag, hdist⟩
  | rob aux b a =>
    obtain ⟨d, near, hd, rfl⟩ := exists_of_search_ok (ok_of_check (ok_of_check ((robResult_eq ..).symm.trans h)))
    obtain ⟨hn, hn2, hn3, htag, hdist⟩ := inRange_nearestBody hd near
    exact ⟨hn, hn2, hn3, htag, hdist⟩
  | cnt aux b a =>
    obtain rfl := Except.ok.inj (ok_of_check ((cntResult_eq ..).symm.trans h))
    exact ⟨toNat_sizeField_le _, toNat_sizeField_le _, toNat_sizeField_le _, zero_tag_ne, zero_dist_le⟩
  | reserved0 | reserved9 | reservedA | reservedB | reservedC | reservedD | reservedE | reservedF => cases h
  | dataDirect | dataInverted | ctrl00 | ctrl10 | ctrl01 | ctrl11 | forbidden =>
    obtain rfl := Except.ok.inj h
    exact inRange_symbolBody _

/-- An answer of an unfaulted core has the form of the port. -/
theorem responseForm_okResponse {s : State} {body : Response} (hF : fsrF s.fsr = false) (h : ResultInRange body) :
    ResponseForm (okResponse body s) where
  n_le := h.n_le
  n2_le := h.n2_le
  n3_le := h.n3_le
  tag_ne := h.tag_ne
  dist_le := h.dist_le
  status_f := by simp [hF]
  fault_blank := fun hstatus => absurd hstatus (by simp)

/-- The fault response of a faulted core has the form of the port. -/
theorem responseForm_faultResponse {s : State} (hF : fsrF s.fsr = true) : ResponseForm (faultResponse s) where
  n_le := zero_size_le
  n2_le := zero_size_le
  n3_le := zero_size_le
  tag_ne := zero_tag_ne
  dist_le := zero_dist_le
  status_f := by simp [hF]
  fault_blank := fun _ => resultBlank_faultResponse s

end Sys2Proof.Machine
end

section
/-! The causes that instructions report (spec R126, R127): never the build's, and one exactly on operands outside their legal
ranges (R47). -/

namespace Sys2Proof.Machine

theorem mem_of_firstFailed {checks : List (Bool × Cause)} {cause : Cause} (h : firstFailed checks = some cause) :
    cause ∈ checks.map Prod.snd := by
  induction checks with
  | nil => cases h
  | cons check rest ih =>
    rw [firstFailed] at h
    split at h
    case isTrue =>
      obtain rfl := Option.some.inj h
      exact List.mem_cons_self
    case isFalse => exact List.mem_cons_of_mem _ (ih h)

theorem firstFailed_isNone (checks : List (Bool × Cause)) :
    (firstFailed checks).isNone = checks.all fun check => !check.1 := by
  induction checks with
  | nil => rfl
  | cons check rest ih =>
    obtain ⟨fails, cause⟩ := check
    rw [firstFailed, List.all_cons]
    cases fails with
    | false => simpa using ih
    | true => rfl

/-- No instruction reports `BUILD_COLLISION`: that is the build's own cause (R94, R126). -/
theorem firstBrokenCheck_ne_buildCollision (i : Instr) : firstBrokenCheck i ≠ some .buildCollision := by
  intro h
  cases i with
  | enc | ctl | cls | ham | nvs | fcl | rob | cnt => simpa using mem_of_firstFailed h
  | reserved0 | reserved9 | reservedA | reservedB | reservedC | reservedD | reservedE | reservedF
  | dataDirect | dataInverted | ctrl00 | ctrl10 | ctrl01 | ctrl11 | forbidden => cases h

theorem ne_buildCollision_of_resultOf {cfg : Config} {i : Instr} {cause : Cause} (h : resultOf cfg i = .error cause) :
    cause ≠ .buildCollision := by
  rintro rfl
  rw [← causeOf_eq_some_iff, causeOf_resultOf] at h
  exact firstBrokenCheck_ne_buildCollision i h

/-- The ranges of R47 are the checks of R127, row by row. -/
theorem operandsLegal_eq_isNone (i : Instr) : operandsLegal i = (firstBrokenCheck i).isNone := by
  cases i with
  | enc aux b a | ctl aux b a | cls aux b a | ham aux b a | fcl aux b a | rob aux b a | cnt aux b a =>
    rw [firstBrokenCheck, firstFailed_isNone, Bool.eq_iff_iff]
    simp [operandsLegal, and_assoc]
  | nvs aux b a =>
    have haux : 1 ≤ aux.toNat ↔ aux ≠ 0 := by rw [Nat.one_le_iff_ne_zero, ne_eq, ne_eq, ← BitVec.toNat_inj]; rfl
    rw [firstBrokenCheck, firstFailed_isNone, Bool.eq_iff_iff]
    simp [operandsLegal, and_assoc, haux]
  | reserved0 | reserved9 | reservedA | reservedB | reservedC | reservedD | reservedE | reservedF
  | dataDirect | dataInverted | ctrl00 | ctrl10 | ctrl01 | ctrl11 | forbidden => rfl

/-- Operands in their legal ranges are answered. -/
theorem exists_resultOf_of_operandsLegal {i : Instr} (cfg : Config) (h : operandsLegal i = true) :
    ∃ body, resultOf cfg i = .ok body := by
  rw [operandsLegal_eq_isNone, Option.isNone_iff_eq_none, ← causeOf_resultOf cfg] at h
  exact causeOf_eq_none_iff.1 h

theorem operandsLegal_of_resultOf_ok {cfg : Config} {i : Instr} {body : Response} (h : resultOf cfg i = .ok body) :
    operandsLegal i = true := by
  rw [operandsLegal_eq_isNone, ← causeOf_resultOf cfg, h]
  rfl

theorem operandsLegal_of_resultOf_error {cfg : Config} {i : Instr} {cause : Cause} (h : resultOf cfg i = .error cause) :
    operandsLegal i = false := by
  rw [operandsLegal_eq_isNone, ← causeOf_resultOf cfg, h]
  rfl

/-- Settles O15: an error is taken as a fault and an answer leaves `F` alone; which it is, the legal ranges decide. -/
theorem faultsExactlyOnIllegalOperands : Obligations.FaultsExactlyOnIllegalOperands := by
  intro s i hF
  rcases exec_cases i s with ⟨hfaulted, -⟩ | ⟨-, cause, hres, hexec⟩ | ⟨-, body, hres, hexec⟩
  case inl => exact absurd hfaulted (by simp [faulted, hF])
  case inr.inl => exact ⟨_, hexec, by simp [operandsLegal_of_resultOf_error hres]⟩
  case inr.inr => exact ⟨_, hexec, by simp [hF, operandsLegal_of_resultOf_ok hres]⟩

end Sys2Proof.Machine
end

section
/-! Reset and the state invariant (spec R24, R25, R126, R144, R146): it holds after reset, and each thing a step does keeps
it. -/

namespace Sys2Proof.Machine

/-! ### The reset value of `FSR` -/

theorem resetFsr_of_builds {cfg : Config} (h : buildSucceeds cfg = true) : resetFsr cfg = 0 := if_pos h

theorem resetFsr_of_fails {cfg : Config} (h : buildSucceeds cfg = false) : resetFsr cfg = faultedFsr .buildCollision :=
  if_neg (ne_true_of_eq_false h)

/-- `FSR` is made of `F` and `CAUSE` (R24). -/
theorem toNat_fsr (fsr : BitVec 4) : fsr.toNat = (fsrF fsr).toNat + 2 * (fsrCause fsr).toNat := by
  revert fsr
  decide

/-- Settles O18: the layout of `FSR` on its sixteen values, and the six faulted values. -/
theorem faultStatusFields : Obligations.FaultStatusFields :=
  ⟨toNat_fsr, by decide, by decide, by decide, by decide, by decide, by decide⟩

/-! ### The causes of the latch -/

theorem causeCode_ne_zero (cause : Cause) : causeCode cause ≠ 0 := by cases cause <;> decide

theorem causeCode_ne_seven (cause : Cause) : causeCode cause ≠ 7 := by cases cause <;> decide

theorem causeCode_eq_one_iff {cause : Cause} : causeCode cause = 1 ↔ cause = .buildCollision := by
  cases cause <;> decide

/-! ### Where the invariant holds -/

/-- `FSR` and `FREQ` at their reset values have the invariant, whatever the host has received in form. -/
theorem stateInvariant_of_reset {s : State} (hfsr : s.fsr = resetFsr s.config) (hfreq : s.freq = 0)
    (hanswers : ∀ r ∈ s.responses, ResponseForm r) : StateInvariant s := by
  cases hbuild : buildSucceeds s.config with
  | true =>
    rw [resetFsr_of_builds hbuild] at hfsr
    exact ⟨by rw [hfsr]; decide, by rw [hfsr]; decide, fun _ => hfreq, fun _ => hfreq,
      by rw [hfsr, hbuild]; decide, hanswers⟩
  | false =>
    rw [resetFsr_of_fails hbuild] at hfsr
    exact ⟨by rw [hfsr]; decide, by rw [hfsr]; decide, fun _ => hfreq, fun _ => hfreq,
      by rw [hfsr, hbuild]; decide, hanswers⟩

theorem stateInvariant_resetWith (cfg : Config) : StateInvariant (State.resetWith cfg) :=
  stateInvariant_of_reset (by simp) (by simp) (by simp)

namespace StateInvariant

variable {s : State} (h : StateInvariant s)
include h

/-- The invariant does not speak of what is presented. -/
theorem with_pending (rest : List HostInput) : StateInvariant { s with pending := rest } :=
  ⟨h.f_iff_cause, h.cause_ne, h.freq_zero, h.freq_build, h.build_iff, h.answers⟩

theorem emit {r : Response} (hr : ResponseForm r) : StateInvariant (emit r s) :=
  ⟨h.f_iff_cause, h.cause_ne, h.freq_zero, h.freq_build, h.build_iff, List.forall_mem_cons.2 ⟨hr, h.answers⟩⟩

/-- An unfaulted core's configuration builds (R144). -/
theorem builds (hF : fsrF s.fsr = false) : buildSucceeds s.config = true := by
  refine Bool.eq_true_of_not_eq_false fun hfails => ?_
  have hcause := h.f_iff_cause.1 hF
  rw [h.build_iff.2 hfails] at hcause
  exact absurd hcause (by decide)

/-- An unfaulted core has `FSR = 0` (R24). -/
theorem fsr_eq_zero (hF : fsrF s.fsr = false) : s.fsr = 0 := by
  apply BitVec.eq_of_toNat_eq
  rw [toNat_fsr, hF, h.f_iff_cause.1 hF]
  rfl

/-- The state of a fault that a request takes. -/
theorem with_fault (hF : fsrF s.fsr = false) {cause : Cause} (hcause : cause ≠ .buildCollision) (w : RequestWord) :
    StateInvariant { s with fsr := faultedFsr cause, freq := w } := by
  have hcode : fsrCause (faultedFsr cause) = causeCode cause := fsrCause_faultedFsr cause
  have hzero : fsrCause (faultedFsr cause) ≠ 0 := by rw [hcode]; exact causeCode_ne_zero cause
  have hseven : fsrCause (faultedFsr cause) ≠ 7 := by rw [hcode]; exact causeCode_ne_seven cause
  have hone : fsrCause (faultedFsr cause) ≠ 1 := by rwa [hcode, ne_eq, causeCode_eq_one_iff]
  have hbuilds : buildSucceeds s.config ≠ false := by simp [h.builds hF]
  exact ⟨iff_of_false (by simp) hzero, hseven, fun hF' => absurd hF' (by simp), fun hbuild => absurd hbuild hone,
    iff_of_false hone hbuilds, h.answers⟩

/-- Each of the three things `exec` can do keeps the invariant. -/
theorem exec {i : Instr} {t : State} (hexec : exec i s = .next t) : StateInvariant t := by
  rcases exec_cases i s with ⟨hF, h'⟩ | ⟨hF, cause, hres, h'⟩ | ⟨hF, body, hres, h'⟩ <;>
    obtain rfl := Host.Outcome.next.inj (hexec.symm.trans h')
  case inl => exact h.emit (responseForm_faultResponse hF)
  case inr.inl =>
    exact (h.with_fault hF (ne_buildCollision_of_resultOf hres) _).emit
      (responseForm_faultResponse (fsrF_faultedFsr cause))
  case inr.inr => exact h.emit (responseForm_okResponse hF (inRange_of_resultOf hres))

theorem applyReset : StateInvariant (applyReset s) :=
  stateInvariant_of_reset (by simp) (by simp) (by simpa using h.answers)

end StateInvariant

/-- Settles O20: an idle step changes nothing, and reset and every instruction keep the invariant. -/
theorem stepKeepsInvariant : Obligations.StepKeepsInvariant := by
  intro s t hinv hstep
  rcases step_cases hstep with ⟨-, rfl⟩ | ⟨rest, -, rfl⟩ | ⟨u, rest, i, -, -, hexec⟩
  case inl => exact hinv
  case inr.inl => exact (hinv.with_pending rest).applyReset
  case inr.inr => exact (hinv.with_pending rest).exec hexec

end Sys2Proof.Machine
end

section
/-! The build on a table that keeps its contract (spec R88, R94 to R98): no assignment fails, and what each of them adds to
the four maps. -/

namespace Sys2Proof.Machine

/-- A list of entries that are exactly those of a function looks its values up. -/
theorem lookup_eq_of_mem_iff {α β : Type} [BEq α] [LawfulBEq α] {l : List (α × β)} {f : α → Option β}
    (h : ∀ a b, (a, b) ∈ l ↔ f a = some b) (a : α) : l.lookup a = f a := by
  cases hlookup : l.lookup a with
  | some b =>
    obtain ⟨l₁, l₂, rfl, -⟩ := List.lookup_eq_some_iff.1 hlookup
    exact ((h a b).1 (by simp)).symm
  | none =>
    refine (Option.eq_none_iff_forall_ne_some.2 fun b hb => ?_).symm
    simpa using List.lookup_eq_none_iff.1 hlookup (a, b) ((h a b).2 hb)

/-! ### The bytes -/

theorem mem_entries_of_claims {α : Type} {v : α} {l : List Codeword} {m m' : PartialMap α}
    (h : l.foldlM (fun m c => claim m c v) m = some m') (c : Codeword) (w : α) :
    (c, w) ∈ m'.entries ↔ (c, w) ∈ m.entries ∨ (c ∈ l ∧ w = v) := by
  induction l generalizing m with
  | nil =>
    obtain rfl : m = m' := Option.some.inj h
    simp
  | cons t rest ih =>
    obtain ⟨m₁, hclaim, hrest⟩ := foldlM_cons_eq_some.1 h
    obtain ⟨-, rfl⟩ := claim_eq_some.1 hclaim
    rw [ih hrest]
    simp only [List.mem_cons, Prod.mk.injEq]
    tauto

/-- Assignments to distinct codewords outside the domain do not fail. -/
theorem exists_claims {α : Type} (v : α) {l : List Codeword} {m : PartialMap α} (hl : l.Nodup)
    (hfresh : ∀ c ∈ l, inSet c m.domain = false) : ∃ m', l.foldlM (fun m c => claim m c v) m = some m' := by
  induction l generalizing m with
  | nil => exact ⟨m, rfl⟩
  | cons t rest ih =>
    obtain ⟨ht, hrest⟩ := List.nodup_cons.1 hl
    obtain ⟨hfresh_t, hfresh_rest⟩ := List.forall_mem_cons.1 hfresh
    obtain ⟨m₁, hclaim⟩ : ∃ m₁, claim m t v = some m₁ := ⟨_, claim_eq_some.2 ⟨hfresh_t, rfl⟩⟩
    obtain ⟨-, hm₁⟩ := claim_eq_some.1 hclaim
    obtain ⟨m', hm'⟩ := ih hrest (m := m₁) fun c hc => by
      simp [hm₁, hfresh_rest c hc, ne_of_mem_of_not_mem hc ht]
    exact ⟨m', foldlM_cons_eq_some.2 ⟨m₁, hclaim, hm'⟩⟩

theorem buildByte_eq_some_iff {pol : BalPolarity} {r r' : Registry} {d : Byte} :
    buildByte pol r d = some r' ↔
      ∃ m, (encodeByte pol d).foldlM (fun m c => claim m c d) r.dataReverse = some m ∧
        r' = { r with dataForward := (d, encodeByte pol d) :: r.dataForward, dataReverse := m } := by
  unfold buildByte
  split
  case h_1 hnone => simp [hnone]
  case h_2 m hsome => simp [hsome, eq_comm]

/-- What a list of bytes adds: each byte's candidates forward, each candidate's byte in reverse, nothing about pairs. -/
theorem mem_entries_of_buildBytes {pol : BalPolarity} {l : List Byte} {r r' : Registry}
    (h : l.foldlM (buildByte pol) r = some r') :
    (∀ d cs, (d, cs) ∈ r'.dataForward ↔ (d, cs) ∈ r.dataForward ∨ (d ∈ l ∧ cs = encodeByte pol d)) ∧
    (∀ c d, (c, d) ∈ r'.dataReverse.entries ↔ (c, d) ∈ r.dataReverse.entries ∨ (d ∈ l ∧ c ∈ encodeByte pol d)) ∧
    r'.ctrlForward = r.ctrlForward ∧ r'.ctrlReverse = r.ctrlReverse := by
  induction l generalizing r with
  | nil =>
    obtain rfl : r = r' := Option.some.inj h
    simp
  | cons e rest ih =>
    obtain ⟨r₁, hbyte, hrest⟩ := foldlM_cons_eq_some.1 h
    obtain ⟨m, hclaims, rfl⟩ := buildByte_eq_some_iff.1 hbyte
    obtain ⟨hfwd, hrev, hcfwd, hcrev⟩ := ih hrest
    refine ⟨fun d cs => ?fwd, fun c d => ?rev, hcfwd, hcrev⟩
    case fwd =>
      rw [hfwd]
      simp only [List.mem_cons, Prod.mk.injEq]
      constructor
      · rintro ((⟨rfl, rfl⟩ | hold) | ⟨hd, rfl⟩) <;> simp [*]
      · rintro (hold | ⟨rfl | hd, rfl⟩) <;> simp [*]
    case rev =>
      rw [hrev, mem_entries_of_claims hclaims, List.mem_cons]
      constructor
      · rintro ((hold | ⟨hc, rfl⟩) | ⟨hd, hc⟩) <;> simp [*]
      · rintro (hold | ⟨rfl | hd, hc⟩) <;> simp [*]

/-- The assignments for distinct bytes do not fail: no two bytes share a candidate. -/
theorem exists_buildBytes {pol : BalPolarity} {l : List Byte} {r : Registry} (hl : l.Nodup)
    (hfresh : ∀ d ∈ l, ∀ c ∈ encodeByte pol d, inSet c r.dataReverse.domain = false) :
    ∃ r', l.foldlM (buildByte pol) r = some r' := by
  induction l generalizing r with
  | nil => exact ⟨r, rfl⟩
  | cons e rest ih =>
    obtain ⟨he, hrest⟩ := List.nodup_cons.1 hl
    obtain ⟨hfresh_e, hfresh_rest⟩ := List.forall_mem_cons.1 hfresh
    obtain ⟨m, hclaims⟩ := exists_claims e (encodeByte_nodup pol e) hfresh_e
    obtain ⟨r₁, hbyte⟩ : ∃ r₁, buildByte pol r e = some r₁ := ⟨_, buildByte_eq_some_iff.2 ⟨m, hclaims, rfl⟩⟩
    obtain ⟨r', hr'⟩ := ih hrest (r := r₁) fun d hd c hc => by
      rw [← Bool.not_eq_true, inSet_domain_of_buildByte hbyte, hfresh_rest d hd c hc]
      rintro (hfalse | hce)
      · cases hfalse
      · exact he (byte_eq_of_mem_encodeByte hce hc ▸ hd)
    exact ⟨r', foldlM_cons_eq_some.2 ⟨r₁, hbyte, hr'⟩⟩

/-! ### The control pairs -/

theorem buildPair_eq_some_iff {t : CtrlTable} {r r' : Registry} {p : Bool × Bool} :
    buildPair t r p = some r' ↔
      7 ≤ transitions (ctrlForward t p.1 p.2) ∧ inSet (ctrlForward t p.1 p.2) r.dataReverse.domain = false ∧
      inSet (ctrlForward t p.1 p.2) r.ctrlReverse.domain = false ∧
      r' = { r with
        ctrlForward := (p, ctrlForward t p.1 p.2) :: r.ctrlForward
        ctrlReverse := {
          domain := r.ctrlReverse.domain ||| singleton (ctrlForward t p.1 p.2)
          entries := (ctrlForward t p.1 p.2, p) :: r.ctrlReverse.entries } } := by
  unfold buildPair claim
  by_cases hdense : transitions (ctrlForward t p.1 p.2) < 7
  case pos => simp [hdense, Nat.not_le.2 hdense]
  case neg =>
    cases hdata : inSet (ctrlForward t p.1 p.2) r.dataReverse.domain with
    | true => simp
    | false =>
      cases hfresh : inSet (ctrlForward t p.1 p.2) r.ctrlReverse.domain with
      | true => simp
      | false => simp [hdense, Nat.not_lt.1 hdense, eq_comm]

/-- What a list of pairs adds: each pair's codeword forward, each codeword's pair in reverse, nothing about bytes. -/
theorem mem_entries_of_buildPairs {t : CtrlTable} {l : List (Bool × Bool)} {r r' : Registry}
    (h : l.foldlM (buildPair t) r = some r') :
    (∀ p c, (p, c) ∈ r'.ctrlForward ↔ (p, c) ∈ r.ctrlForward ∨ (p ∈ l ∧ c = ctrlForward t p.1 p.2)) ∧
    (∀ c p, (c, p) ∈ r'.ctrlReverse.entries ↔
      (c, p) ∈ r.ctrlReverse.entries ∨ (p ∈ l ∧ c = ctrlForward t p.1 p.2)) ∧
    r'.dataForward = r.dataForward ∧ r'.dataReverse = r.dataReverse := by
  induction l generalizing r with
  | nil =>
    obtain rfl : r = r' := Option.some.inj h
    simp
  | cons q rest ih =>
    obtain ⟨r₁, hpair, hrest⟩ := foldlM_cons_eq_some.1 h
    obtain ⟨-, -, -, rfl⟩ := buildPair_eq_some_iff.1 hpair
    obtain ⟨hfwd, hrev, hdfwd, hdrev⟩ := ih hrest
    refine ⟨fun p c => ?fwd, fun c p => ?rev, hdfwd, hdrev⟩
    case fwd =>
      rw [hfwd]
      simp only [List.mem_cons, Prod.mk.injEq]
      constructor
      · rintro ((⟨rfl, rfl⟩ | hold) | ⟨hp, rfl⟩) <;> simp [*]
      · rintro (hold | ⟨rfl | hp, rfl⟩) <;> simp [*]
    case rev =>
      rw [hrev]
      simp only [List.mem_cons, Prod.mk.injEq]
      constructor
      · rintro ((⟨rfl, rfl⟩ | hold) | ⟨hp, rfl⟩) <;> simp [*]
      · rintro (hold | ⟨rfl | hp, rfl⟩) <;> simp [*]

/-- The assignments for pairs with distinct, dense codewords outside both domains do not fail. -/
theorem exists_buildPairs {t : CtrlTable} {l : List (Bool × Bool)} {r : Registry}
    (hnodup : (l.map fun p => ctrlForward t p.1 p.2).Nodup)
    (hchecks : ∀ p ∈ l, 7 ≤ transitions (ctrlForward t p.1 p.2) ∧
      inSet (ctrlForward t p.1 p.2) r.dataReverse.domain = false ∧
      inSet (ctrlForward t p.1 p.2) r.ctrlReverse.domain = false) :
    ∃ r', l.foldlM (buildPair t) r = some r' := by
  induction l generalizing r with
  | nil => exact ⟨r, rfl⟩
  | cons q rest ih =>
    obtain ⟨hq, hrest⟩ := List.nodup_cons.1 hnodup
    obtain ⟨⟨hdense_q, hdata_q, hfresh_q⟩, hchecks_rest⟩ := List.forall_mem_cons.1 hchecks
    obtain ⟨r₁, hpair⟩ : ∃ r₁, buildPair t r q = some r₁ :=
      ⟨_, buildPair_eq_some_iff.2 ⟨hdense_q, hdata_q, hfresh_q, rfl⟩⟩
    obtain ⟨-, -, -, hr₁⟩ := buildPair_eq_some_iff.1 hpair
    obtain ⟨r', hr'⟩ := ih hrest (r := r₁) fun p hp => by
      obtain ⟨hdense, hdata, hfresh⟩ := hchecks_rest p hp
      have hne : ctrlForward t p.1 p.2 ≠ ctrlForward t q.1 q.2 :=
        ne_of_mem_of_not_mem (List.mem_map_of_mem (f := fun p => ctrlForward t p.1 p.2) hp) hq
      exact ⟨hdense, by simp [hr₁, hdata], by simp [hr₁, hfresh, hne]⟩
    exact ⟨r', foldlM_cons_eq_some.2 ⟨r₁, hpair, hr'⟩⟩

/-! ### The build -/

theorem build_eq_some_iff {cfg : Config} {r' : Registry} :
    build cfg = some r' ↔ ∃ r, allBytes.foldlM (buildByte cfg.balPolarity) emptyRegistry = some r ∧
      allPairs.foldlM (buildPair cfg.ctrlTable) r = some r' := by
  unfold build
  cases allBytes.foldlM (buildByte cfg.balPolarity) emptyRegistry <;> simp

namespace LegalTable

variable {cfg : Config} (h : LegalTable cfg)
include h

/-- R98: the contract is all that the build asks for. -/
theorem buildSucceeds : buildSucceeds cfg = true := by
  obtain ⟨r, hbytes⟩ := exists_buildBytes (pol := cfg.balPolarity) (r := emptyRegistry) allBytes_nodup
    fun d _ c _ => inSet_zero c
  have hnodup : (allPairs.map fun p => ctrlForward cfg.ctrlTable p.1 p.2).Nodup :=
    List.Nodup.map_on h.distinct (by decide)
  have hempty : r.ctrlReverse = emptyMap := (mem_entries_of_buildBytes hbytes).2.2.2
  obtain ⟨r', hpairs⟩ := exists_buildPairs (r := r) hnodup fun p hp => by
    refine ⟨h.dense p hp, Bool.eq_false_of_not_eq_true fun hdata => ?_, by simp [hempty, emptyMap]⟩
    rw [inSet_domain_of_buildBytes hbytes] at hdata
    rcases hdata with hempty | ⟨d, -, hd⟩
    · simp [emptyRegistry, emptyMap] at hempty
    · exact h.apart p hp ⟨d, hd⟩
  exact Option.isSome_iff_exists.2 ⟨r', build_eq_some_iff.2 ⟨r, hbytes, hpairs⟩⟩

theorem ctrlReverse_eq_some_iff {c : Codeword} {p : Bool × Bool} :
    ctrlReverse cfg.ctrlTable c = some p ↔ c = ctrlForward cfg.ctrlTable p.1 p.2 := by
  constructor
  case mp => exact fun hrev => (ctrlForward_of_ctrlReverse hrev).symm
  case mpr =>
    rintro rfl
    exact ctrlReverse_ctrlForward h.distinct p.1 p.2

end LegalTable

/-- Settles O48: a build that succeeds has checked the contract and needs no more; each map looks up its own entries. -/
theorem buildFillsTheTables : Obligations.BuildFillsTheTables := by
  refine fun cfg => ⟨⟨legalTable_of_buildSucceeds, LegalTable.buildSucceeds⟩, fun r' hbuild => ?_⟩
  have hlegal := legalTable_of_buildSucceeds (Option.isSome_iff_exists.2 ⟨r', hbuild⟩)
  obtain ⟨r, hbytes, hpairs⟩ := build_eq_some_iff.1 hbuild
  obtain ⟨hdfwd, hdrev, hcfwd₀, hcrev₀⟩ := mem_entries_of_buildBytes hbytes
  obtain ⟨hcfwd, hcrev, hdfwd', hdrev'⟩ := mem_entries_of_buildPairs hpairs
  rw [← hdfwd'] at hdfwd
  rw [← hdrev'] at hdrev
  rw [hcfwd₀] at hcfwd
  rw [hcrev₀] at hcrev
  refine ⟨fun d => ?dataForward, fun c => ?dataReverse, fun p => ?ctrlForward, fun c => ?ctrlReverse⟩
  case dataForward =>
    refine lookup_eq_of_mem_iff (f := fun d => some (romDataFwd cfg d)) (fun d cs => ?_) d
    rw [hdfwd]
    simp [emptyRegistry, mem_allBytes, romDataFwd, eq_comm]
  case dataReverse =>
    refine lookup_eq_of_mem_iff (fun c d => ?_) c
    rw [hdrev, romDataRev, dataReverse_eq_some_iff]
    simp [emptyRegistry, emptyMap, mem_allBytes]
  case ctrlForward =>
    refine lookup_eq_of_mem_iff (f := fun p : Bool × Bool => some (ctrlForward cfg.ctrlTable p.1 p.2)) (fun p c => ?_) _
    rw [hcfwd]
    simp [emptyRegistry, mem_allPairs, eq_comm]
  case ctrlReverse =>
    refine lookup_eq_of_mem_iff (fun c p => ?_) c
    rw [hcrev, romCtrlRev, hlegal.ctrlReverse_eq_some_iff]
    simp [emptyRegistry, emptyMap, mem_allPairs]

end Sys2Proof.Machine
end

section
/-! The default control table (spec R89, R92; its values PRESUMED, log 2): its contract, and the sizes of the sets (R106). -/

namespace Sys2Proof.Machine

/-- A codeword with 7 transitions is no data codeword, which has at most 5 (R84 (d)). -/
theorem not_isData_of_dense {cfg : Config} {c : Codeword} (h : 7 ≤ transitions c) : ¬ IsData cfg c := by
  rintro ⟨d, hd⟩
  obtain ⟨-, -, heach, -⟩ := encoderKeepsItsProperties cfg.balPolarity d
  obtain ⟨-, -, hfew, -⟩ := heach c hd
  omega

/-- Settles O49: the entries are distinct and dense by evaluation, and dense codewords are apart from DATA. -/
theorem defaultTableContract : Obligations.DefaultTableContract := by
  intro pol
  have hdense : ∀ p ∈ allPairs, 7 ≤ transitions (ctrlForward CtrlTable.default p.1 p.2) := by decide
  have hdistinct : ∀ p ∈ allPairs, ∀ q ∈ allPairs,
      ctrlForward CtrlTable.default p.1 p.2 = ctrlForward CtrlTable.default q.1 q.2 → p = q := by decide
  exact ⟨hdistinct, hdense, fun p hp => not_isData_of_dense (hdense p hp)⟩

/-- Settles O54: 460 candidates, four control codewords by the contract, and the rest of the 1024. -/
theorem defaultSizes : Obligations.DefaultSizes := by
  intro pol
  have hlegal := defaultTableContract pol
  have hdata := card_dataSet pol
  have hctrl := hlegal.card_ctrlSet
  have hsum := hlegal.card_partition
  rw [hdata, hctrl] at hsum
  refine ⟨hdata, ?_, by omega⟩
  rw [hlegal.controlSet_eq_ctrlSet, hctrl]

end Sys2Proof.Machine
end

section
/-! Presented words, reset and runs (spec R27, R129, R137, R144, R146): what each input does to a core in a known state, and
runs from such states. -/

namespace Sys2Proof.Machine

/-! ### Presented words -/

theorem withFetchWord_request (s : State) (w : RequestWord) :
    s.withFetchWord 32 w.toNat = presentInput (.request w) s := by
  have hw : w.toNat < 4294967296 := w.isLt
  simp [State.withFetchWord, presentBits, inputOfBits, hw]

theorem withFetchWord_codeword (s : State) (c : Codeword) :
    s.withFetchWord 16 c.toNat = presentInput (.codeword c) s := by
  have hc : c.toNat < 1024 := c.isLt
  simp [State.withFetchWord, presentBits, inputOfBits, hc]

/-- The step after an input is presented takes that input and leaves what was presented before. -/
theorem step_presentInput {s : State} {u : HostInput} {i : Instr} (h : decodeInput s.config u = some i) :
    step (presentInput u s) = exec i s :=
  stepRunsDecodedInstruction (presentInput u s) u s.pending i rfl h

/-- Settles O8: both widths present the input the word stands for, and the next step takes it. -/
theorem presentedWordRunsNext : Obligations.PresentedWordRunsNext := by
  refine fun s => ⟨fun w => ?_, fun c => ?_⟩
  · rw [withFetchWord_request]
    exact step_presentInput rfl
  · rw [withFetchWord_codeword]
    exact step_presentInput rfl

/-- Settles O11: the model's own step with nothing presented (log 5). -/
theorem idleStepHoldsState : Obligations.IdleStepHoldsState := fun _ h => step_of_pending_nil h

/-! ### Reset -/

theorem fsr_fields_of_builds {cfg : Config} (h : buildSucceeds cfg = true) :
    fsrF (resetFsr cfg) = false ∧ fsrCause (resetFsr cfg) = 0 := by
  rw [resetFsr_of_builds h]
  decide

theorem fsr_fields_of_fails {cfg : Config} (h : buildSucceeds cfg = false) :
    fsrF (resetFsr cfg) = true ∧ fsrCause (resetFsr cfg) = 1 := by
  rw [resetFsr_of_fails h]
  decide

/-- Settles O9: the reset input and a core that starts have the same `FSR`, with the two values of R144. -/
theorem resetTakesTheResetState : Obligations.ResetTakesTheResetState := by
  refine ⟨fun s rest hpending => ⟨_, step_of_reset hpending, by simp, by simp, by simp, by simp, fun h => ?_, fun h => ?_⟩,
    fun cfg => ⟨resetWith_freq cfg, fun h => ?_, fun h => ?_⟩⟩
  · rw [applyReset_fsr]
    exact fsr_fields_of_builds h
  · rw [applyReset_fsr]
    exact fsr_fields_of_fails h
  · rw [resetWith_fsr, resetFsr_of_builds h]
  · rw [resetWith_fsr]
    exact fsr_fields_of_fails h

/-- The default configuration builds under both polarities, as its table keeps the contract (log 2). -/
theorem default_buildSucceeds (pol : BalPolarity) :
    buildSucceeds { ctrlTable := CtrlTable.default, balPolarity := pol } = true :=
  (defaultTableContract pol).buildSucceeds

theorem resetWith_default : State.resetWith Config.default = State.reset := by
  have hbuild : buildSucceeds Config.default = true := default_buildSucceeds .followX
  rw [State.resetWith, State.reset, resetFsr_of_builds hbuild]

/-- Settles O10: the default configuration builds, so its reset state is the unfaulted one. -/
theorem defaultResetState : Obligations.DefaultResetState := ⟨resetWith_default, rfl, rfl⟩

/-- Settles O12: reset writes `FSR` and `FREQ` and nothing else. -/
theorem resetIsIdempotent : Obligations.ResetIsIdempotent := by
  refine ⟨fun s hfsr hfreq => ?_, fun s hbuild => ?_⟩
  · rw [resetWith_fsr] at hfsr
    rw [resetWith_freq] at hfreq
    rw [applyReset, ← hfsr, ← hfreq]
  · rw [applyReset_fsr, applyReset_freq]
    obtain ⟨hF, hcause⟩ := fsr_fields_of_builds hbuild
    exact ⟨hF, hcause, rfl⟩

/-- Settles O21: `FSR` and `FREQ` have their reset values and nothing is answered yet. -/
theorem resetHasInvariant : Obligations.ResetHasInvariant :=
  ⟨stateInvariant_resetWith, resetWith_default ▸ stateInvariant_resetWith Config.default⟩

/-! ### A core whose build fails -/

/-- The core of a failing configuration as it comes out of reset and stays (R146): faulted by the build, with only fault
responses returned. -/
structure BuildFaulted (cfg : Config) (s : State) : Prop where
  config_eq : s.config = cfg
  fsr_eq : s.fsr = faultedFsr .buildCollision
  freq_eq : s.freq = 0
  answers : ∀ r ∈ s.responses, r = { Response.blank with status := 1, fsr := faultedFsr .buildCollision }

namespace BuildFaulted

variable {cfg : Config} {s : State} (h : BuildFaulted cfg s)
include h

theorem faulted : faulted s = true := by
  unfold Machine.faulted
  rw [h.fsr_eq, fsrF_faultedFsr]

theorem faultResponse_eq :
    faultResponse s = { Response.blank with status := 1, fsr := faultedFsr .buildCollision } := by
  unfold faultResponse
  rw [h.fsr_eq, h.freq_eq]
  rfl

theorem with_pending (rest : List HostInput) : BuildFaulted cfg { s with pending := rest } :=
  ⟨h.config_eq, h.fsr_eq, h.freq_eq, h.answers⟩

theorem answerFaulted : BuildFaulted cfg (answerFaulted s) :=
  ⟨h.config_eq, h.fsr_eq, h.freq_eq, List.forall_mem_cons.2 ⟨h.faultResponse_eq, h.answers⟩⟩

/-- Reset brings a core whose build fails back to the same fault. -/
theorem applyReset (hfails : buildSucceeds cfg = false) : BuildFaulted cfg (applyReset s) := by
  refine ⟨?_, ?_, applyReset_freq s, ?_⟩
  · rw [applyReset_config, h.config_eq]
  · rw [applyReset_fsr, h.config_eq, resetFsr_of_fails hfails]
  · rw [applyReset_responses]
    exact h.answers

/-- Whatever is presented, a step leaves the core as it was. -/
theorem step (hfails : buildSucceeds cfg = false) : ∃ t, step s = .next t ∧ BuildFaulted cfg t := by
  cases hpending : s.pending with
  | nil => exact ⟨s, step_of_pending_nil hpending, h⟩
  | cons u rest =>
    by_cases hu : u = .reset
    case pos =>
      subst hu
      exact ⟨_, step_of_reset hpending, (h.with_pending rest).applyReset hfails⟩
    case neg => exact ⟨_, step_of_faulted h.faulted hpending hu, (h.with_pending rest).answerFaulted⟩

end BuildFaulted

/-- Settles O19: the faulted core is kept by every step, so by every run; the default table keeps its contract. -/
theorem failedBuildServesNothing : Obligations.FailedBuildServesNothing := by
  refine ⟨fun cfg us k hfails => ?_, default_buildSucceeds⟩
  have hstart : BuildFaulted cfg { State.resetWith cfg with pending := us } :=
    ⟨by simp, by simp [resetFsr_of_fails hfails], by simp, by simp⟩
  obtain ⟨t, hrun, ht⟩ := run_of_step_keeps (fun s hs => BuildFaulted.step hs hfails) k hstart
  exact ⟨t, hrun, ht.fsr_eq, ht.freq_eq, ht.answers⟩

/-! ### A core that is not faulted -/

/-- Settles O22: `FSR` and `FREQ` are 0 in both states, and the result is that of the instruction and the configuration. -/
theorem responseDependsOnRequestAlone : Obligations.ResponseDependsOnRequestAlone := by
  intro i s t hs ht hconfig hFs hFt
  have hfsr : s.fsr = t.fsr := (hs.fsr_eq_zero hFs).trans (ht.fsr_eq_zero hFt).symm
  have hfreq : s.freq = t.freq := (hs.freq_zero hFs).trans (ht.freq_zero hFt).symm
  rw [exec_eq_serve, exec_eq_serve, ← hconfig]
  cases resultOf s.config i with
  | error cause =>
    exact ⟨_, _, _, serve_of_error hFs, serve_of_error hFt, raiseFault_responses .., raiseFault_responses .., rfl, rfl⟩
  | ok body =>
    refine ⟨_, _, _, serve_of_ok hFs, serve_of_ok hFt, rfl, ?_, hfsr, hfreq⟩
    rw [answerOk_responses, okResponse, okResponse, hfsr, hfreq]

/-- A legal request in an unfaulted core is answered as in a freshly reset one, and nothing but the answer is written. -/
theorem step_of_legal {s : State} {w : RequestWord} {rest : List HostInput} (hinv : StateInvariant s)
    (hF : fsrF s.fsr = false) (hlegal : operandsLegal (decodeRequest w) = true)
    (hpending : s.pending = .request w :: rest) :
    ∃ r, freshAnswer s.config w = some r ∧ step s = .next { s with pending := rest, responses := r :: s.responses } := by
  obtain ⟨body, hbody⟩ := exists_resultOf_of_operandsLegal s.config hlegal
  have hreset : State.resetWith s.config = { s with pending := [], responses := [] } := by
    rw [State.resetWith, resetFsr_of_builds (hinv.builds hF), ← hinv.fsr_eq_zero hF, ← hinv.freq_zero hF]
  refine ⟨okResponse body s, ?fresh, ?step⟩
  case fresh =>
    have hanswer : AnswersWith (decodeRequest w) (State.resetWith s.config) body := by
      rw [hreset]
      exact answersWith_of_resultOf hF hbody
    unfold freshAnswer
    rw [hanswer, hreset]
    rfl
  case step =>
    rw [stepRunsDecodedInstruction s _ rest _ hpending rfl]
    exact answersWith_of_resultOf (s := { s with pending := rest }) hF hbody

/-- Settles O23, by induction on the requests: each step answers one of them and keeps the invariant. -/
theorem legalRequestsAnswerIndependently : Obligations.LegalRequestsAnswerIndependently := by
  intro s ws rest hinv hF hlegal hpending
  induction ws generalizing s with
  | nil => exact ⟨s, rfl, hpending, rfl, rfl, rfl, by simp⟩
  | cons w ws ih =>
    obtain ⟨hlegal_w, hlegal_ws⟩ := List.forall_mem_cons.1 hlegal
    obtain ⟨r, hr, hstep⟩ := step_of_legal hinv hF hlegal_w hpending
    obtain ⟨t, hrun, hrest, hconfig, hfsr, hfreq, hresponses⟩ := ih _ (stepKeepsInvariant _ _ hinv hstep) hF hlegal_ws rfl
    refine ⟨t, (run_succ hstep).trans hrun, hrest, hconfig, hfsr, hfreq, ?_⟩
    rw [hresponses]
    simp [hr]

end Sys2Proof.Machine
end

section
/-! The integer of a vector and the Hamming distance (spec R61, R62, R70): the weighted sum of the bits, and the distance as a
count of positions. -/

namespace Sys2Proof.Machine

/-! ### The integer of a vector -/

/-- The low `k` binary digits, each with its weight. -/
theorem mod_two_pow_eq_sum (k x : Nat) : x % 2 ^ k = ∑ i ∈ Finset.range k, if x.testBit i then 2 ^ i else 0 := by
  induction k with
  | zero => simp [Nat.mod_one]
  | succ k ih =>
    rw [Finset.sum_range_succ, ← ih, Nat.mod_pow_succ, Nat.testBit_eq_decide_div_mod_eq]
    rcases Nat.mod_two_eq_zero_or_one (x / 2 ^ k) with h | h <;> simp [h]

theorem toInteger_eq_sum {n : Nat} (v : BitVec n) :
    toInteger v = ∑ i ∈ Finset.range n, if v.getLsbD i then (2 : Int) ^ i else 0 := by
  rw [toInteger_eq_toNat, ← Nat.mod_eq_of_lt v.isLt, mod_two_pow_eq_sum]
  push_cast
  rfl

theorem fromInteger_toInteger {n : Nat} (v : BitVec n) : fromInteger (toInteger v) n = some v :=
  fromInteger_eq_some_iff.2 (toInteger_eq_toNat v)

/-- Settles O37: the sum by the digits, the range by the width, the inverses by what `fromInteger` answers. -/
theorem toIntegerInverse : Obligations.ToIntegerInverse := by
  refine ⟨fun n v => toInteger_eq_sum v, fun n v => ⟨?_, ?_, fromInteger_toInteger v⟩, fun n x hpos hlt => ?_⟩
  · rw [toInteger_eq_toNat]
    exact Int.natCast_nonneg _
  · rw [toInteger_eq_toNat]
    exact mod_cast v.isLt
  · have hsome : fromInteger x n ≠ none := fun hnone => by
      have hout := fromInteger_eq_none_iff.1 hnone
      omega
    obtain ⟨v, hv⟩ := Option.ne_none_iff_exists'.1 hsome
    rw [hv, Option.map_some, toInteger_eq_toNat, fromInteger_eq_some_iff.1 hv]

/-! ### The Hamming distance -/

theorem hamming_eq_countP {n : Nat} (a b : BitVec n) :
    hamming a b = (List.range n).countP fun i => xorBit (a.getLsbD i) (b.getLsbD i) := by
  rw [hamming, ones_eq_countP]
  exact List.countP_congr fun i _ => by rw [BitVec.getLsbD_xor]; rfl

theorem hamming_comm {n : Nat} (a b : BitVec n) : hamming a b = hamming b a := by
  rw [hamming, hamming, BitVec.xor_comm]

/-- A vector and its complement differ at every index. -/
theorem hamming_invert {n : Nat} (a : BitVec n) : hamming a (invert a) = n := by
  have hall : (List.range n).countP (fun i => xorBit (a.getLsbD i) ((invert a).getLsbD i)) = (List.range n).length :=
    List.countP_eq_length.2 fun i hi => by
      rw [getLsbD_invert a (List.mem_range.1 hi)]
      simp [xorBit]
  rw [hamming_eq_countP, hall, List.length_range]

/-- A test that needs one of two others to hold holds at most as often as the two together. -/
theorem countP_le_add {α : Type} {p q r : α → Bool} (h : ∀ x, p x = true → q x = true ∨ r x = true) (l : List α) :
    l.countP p ≤ l.countP q + l.countP r := by
  induction l with
  | nil => exact Nat.zero_le _
  | cons x rest ih =>
    have hx : (if p x = true then 1 else 0) ≤ (if q x = true then 1 else 0) + (if r x = true then 1 else 0) := by
      split
      case isTrue hp => rcases h x hp with hq | hr <;> simp [*]
      case isFalse => exact Nat.zero_le _
    simp only [List.countP_cons]
    omega

/-- Where `a` and `c` differ, `b` differs from one of them. -/
theorem hamming_triangle {n : Nat} (a b c : BitVec n) : hamming a c ≤ hamming a b + hamming b c := by
  simp only [hamming_eq_countP]
  refine countP_le_add (fun i => ?_) _
  generalize a.getLsbD i = x, b.getLsbD i = y, c.getLsbD i = z
  decide +revert

/-! ### The distance under rotation -/

theorem rotl_xor {n : Nat} (k : Nat) (a b : BitVec n) : rotl k (a ^^^ b) = rotl k a ^^^ rotl k b := by
  apply BitVec.eq_of_getLsbD_eq
  intro j hj
  obtain ⟨i, hi, rfl⟩ : ∃ i < n, (i + k) % n = j := by
    refine ⟨(j + (n - k % n)) % n, Nat.mod_lt _ (by omega), ?_⟩
    have hk : k % n < n := Nat.mod_lt _ (by omega)
    rw [Nat.mod_add_mod, ← Nat.add_mod_mod, Nat.add_assoc, Nat.sub_add_cancel hk.le, Nat.add_mod_right,
      Nat.mod_eq_of_lt hj]
  rw [BitVec.getLsbD_xor, getLsbD_rotl k _ hi, getLsbD_rotl k _ hi, getLsbD_rotl k _ hi, BitVec.getLsbD_xor]

/-- The indices moved up by `k` modulo the width are the same indices in another order. -/
theorem range_map_add_mod_perm (n k : Nat) : ((List.range n).map fun i => (i + k) % n).Perm (List.range n) := by
  have hrotate : ((List.range n).map fun i => (i + k) % n) = (List.range n).rotate k :=
    List.ext_getElem (by simp) fun i _ _ => by simp [List.getElem_rotate]
  rw [hrotate]
  exact List.rotate_perm _ _

theorem ones_rotl {n : Nat} (k : Nat) (v : BitVec n) : ones (rotl k v) = ones v := by
  rw [ones_eq_countP, ones_eq_countP, ← (range_map_add_mod_perm n k).countP_eq, List.countP_map]
  exact List.countP_congr fun i hi => by rw [Function.comp_apply, getLsbD_rotl k v (List.mem_range.1 hi)]

theorem hamming_rotl {n : Nat} (k : Nat) (a b : BitVec n) : hamming (rotl k a) (rotl k b) = hamming a b := by
  rw [hamming, ← rotl_xor, ones_rotl, hamming]

/-- Settles O43: the laws of the count of differing positions. -/
theorem hammingIsAMetric : Obligations.HammingIsAMetric := fun _ a b c =>
  ⟨hamming_eq_countP a b, hamming_le a b, hamming_eq_zero_iff, hamming_comm a b, hamming_invert a,
    hamming_triangle a b c, fun k _ => hamming_rotl k a b⟩

/-- Settles O40: the eight rows of the two tables, PRESUMED (log 12), by evaluation. -/
theorem bitOperatorTables : Obligations.BitOperatorTables := by
  unfold Obligations.BitOperatorTables
  decide

end Sys2Proof.Machine
end

section
/-! The direct decoder (spec R105): the inverse of stage 1, and the candidates of a byte by the fields of a codeword. -/

namespace Sys2Proof.Machine

/-! ### The chain and its inverse -/

/-- The operator of stage 1 (R76): XNOR or XOR. -/
def stageOp (xnor : Bool) : Bool → Bool → Bool := if xnor then xnorBit else xorBit

theorem stageOp_undoes_chain (xnor previous bit : Bool) : stageOp xnor (stageOp xnor previous bit) previous = bit := by
  decide +revert

theorem stageOp_redoes_chain (xnor previous bit : Bool) : stageOp xnor previous (stageOp xnor bit previous) = bit := by
  decide +revert

theorem unchain_chain (xnor previous : Bool) (l : List Bool) :
    unchain (stageOp xnor) previous (chain (stageOp xnor) previous l) = l := by
  induction l generalizing previous with
  | nil => rfl
  | cons d rest ih => rw [chain, unchain, ih, stageOp_undoes_chain]

theorem chain_unchain (xnor previous : Bool) (l : List Bool) :
    chain (stageOp xnor) previous (unchain (stageOp xnor) previous l) = l := by
  induction l generalizing previous with
  | nil => rfl
  | cons b rest ih => rw [unchain, chain, stageOp_redoes_chain, ih]

theorem unbaseBits_baseBits (xnor : Bool) (l : List Bool) : unbaseBits (stageOp xnor) (baseBits (stageOp xnor) l) = l := by
  cases l with
  | nil => rfl
  | cons d rest => rw [baseBits, unbaseBits, unchain_chain]

theorem baseBits_unbaseBits (xnor : Bool) (l : List Bool) : baseBits (stageOp xnor) (unbaseBits (stageOp xnor) l) = l := by
  cases l with
  | nil => rfl
  | cons b rest => rw [unbaseBits, baseBits, chain_unchain]

theorem length_chain (op : Bool → Bool → Bool) (previous : Bool) (l : List Bool) :
    (chain op previous l).length = l.length := by
  induction l generalizing previous with
  | nil => rfl
  | cons d rest ih => rw [chain, List.length_cons, ih, List.length_cons]

theorem length_baseBits (op : Bool → Bool → Bool) (l : List Bool) : (baseBits op l).length = l.length := by
  cases l with
  | nil => rfl
  | cons d rest => rw [baseBits, List.length_cons, length_chain, List.length_cons]

theorem length_unbaseBits (xnor : Bool) (l : List Bool) : (unbaseBits (stageOp xnor) l).length = l.length := by
  rw [← length_baseBits (stageOp xnor), baseBits_unbaseBits]

/-! ### Vectors and their lists of bits -/

theorem ofBits_bitsOf {n : Nat} (v : BitVec n) : ofBits n (bitsOf v) = v :=
  BitVec.eq_of_getLsbD_eq fun _ hi => by rw [getLsbD_ofBits _ hi, getD_bitsOf v hi]

theorem bitsOf_ofBits {n : Nat} {l : List Bool} (h : l.length = n) : bitsOf (ofBits n l) = l := by
  refine List.ext_getElem ((length_bitsOf _).trans h.symm) fun i hi hi' => ?_
  have hin : i < n := h ▸ hi'
  rw [List.getElem_eq_getD false, List.getElem_eq_getD false, getD_bitsOf _ hin, getLsbD_ofBits _ hin]

/-! ### Stage 1 and its inverse -/

theorem baseWord_eq_stageOp (d : Byte) : baseWord d = ofBits 8 (baseBits (stageOp (useXnor d)) (bitsOf d)) :=
  baseWord_eq d

theorem unstage1_eq (c : Codeword) :
    unstage1 c = ofBits 8 (unbaseBits (stageOp (!bitX c)) (bitsOf (baseOf c))) := by
  unfold unstage1
  cases bitX c <;> rfl

/-- The byte the decoder reads has the codeword's base word, if its own operator is the one that `X` names. -/
theorem baseWord_unstage1 {c : Codeword} (h : useXnor (unstage1 c) = !bitX c) : baseWord (unstage1 c) = baseOf c := by
  rw [baseWord_eq_stageOp, h, unstage1_eq, bitsOf_ofBits (by rw [length_unbaseBits, length_bitsOf]), baseBits_unbaseBits,
    ofBits_bitsOf]

/-- The decoder reads the byte whose base word and operator the codeword holds. -/
theorem unstage1_eq_of_baseOf {c : Codeword} {d : Byte} (hbase : baseOf c = baseWord d) (hX : bitX c = flagX d) :
    unstage1 c = d := by
  rw [unstage1_eq, hbase, baseWord_eq_stageOp, hX, flagX, Bool.not_not,
    bitsOf_ofBits (by rw [length_baseBits, length_bitsOf]), unbaseBits_baseBits, ofBits_bitsOf]

/-! ### The candidates of a byte by their fields -/

/-- Every codeword is the direct or the inverted codeword of the base word it holds. -/
theorem eq_directCodeword_or_eq_invertedCodeword (c : Codeword) :
    c = directCodeword (baseOf c) (bitX c) ∨ c = invertedCodeword (baseOf c) (bitX c) := by
  have hfields := joinCodeword_fields c
  unfold baseOf directCodeword invertedCodeword
  cases hI : bitI c <;> rw [hI] at hfields
  · exact .inl hfields.symm
  · exact .inr (by simpa using hfields.symm)

/-- Stage 2 leaves out the direct codeword exactly for a balanced base word whose polarity is the other one (R79). -/
theorem directCodeword_mem_encodeByte_iff (pol : BalPolarity) (d : Byte) :
    directCodeword (baseWord d) (flagX d) ∈ encodeByte pol d ↔
      ¬ (bias (baseWord d) = 0 ∧ wrongPolarity pol (directCodeword (baseWord d) (flagX d)) = true) := by
  have hne := directCodeword_ne_invertedCodeword (baseWord d) (flagX d)
  by_cases h : bias (baseWord d) = 0
  case neg => simp [encodeByte_of_unbalanced pol h, h]
  case pos =>
    cases pol with
    | alwaysDirect => simp [encodeByte_alwaysDirect_of_balanced h, wrongPolarity]
    | followX =>
      rw [encodeByte_followX_of_balanced h]
      cases hX : flagX d <;> rw [hX] at hne <;> simp [wrongPolarity, h, hne]

theorem invertedCodeword_mem_encodeByte_iff (pol : BalPolarity) (d : Byte) :
    invertedCodeword (baseWord d) (flagX d) ∈ encodeByte pol d ↔
      ¬ (bias (baseWord d) = 0 ∧ wrongPolarity pol (invertedCodeword (baseWord d) (flagX d)) = true) := by
  have hne := (directCodeword_ne_invertedCodeword (baseWord d) (flagX d)).symm
  by_cases h : bias (baseWord d) = 0
  case neg => simp [encodeByte_of_unbalanced pol h, h]
  case pos =>
    cases pol with
    | alwaysDirect => simp [encodeByte_alwaysDirect_of_balanced h, wrongPolarity, h, hne]
    | followX =>
      rw [encodeByte_followX_of_balanced h]
      cases hX : flagX d <;> rw [hX] at hne <;> simp [wrongPolarity, h, hne]

/-- A candidate of a byte holds its base word and its `X`, and passes the polarity test (R79, R105). -/
theorem mem_encodeByte_iff {pol : BalPolarity} {d : Byte} {c : Codeword} :
    c ∈ encodeByte pol d ↔
      baseOf c = baseWord d ∧ bitX c = flagX d ∧ ¬ (bias (baseOf c) = 0 ∧ wrongPolarity pol c = true) := by
  constructor
  case mp =>
    intro h
    have hbase := baseOf_of_mem_encodeByte h
    refine ⟨hbase, bitX_of_mem_encodeByte h, ?_⟩
    rw [hbase]
    rcases eq_of_mem_encodeByte h with rfl | rfl
    · exact (directCodeword_mem_encodeByte_iff pol d).1 h
    · exact (invertedCodeword_mem_encodeByte_iff pol d).1 h
  case mpr =>
    rintro ⟨hbase, hX, hpol⟩
    have hform := eq_directCodeword_or_eq_invertedCodeword c
    rw [hbase, hX] at hform
    rw [hbase] at hpol
    rcases hform with rfl | rfl
    · exact (directCodeword_mem_encodeByte_iff pol d).2 hpol
    · exact (invertedCodeword_mem_encodeByte_iff pol d).2 hpol

theorem decode10_eq_some_iff {pol : BalPolarity} {c : Codeword} {d : Byte} :
    decode10 pol c = some d ↔ c ∈ encodeByte pol d := by
  rw [mem_encodeByte_iff, decode10]
  constructor
  case mp =>
    intro h
    split at h
    · cases h
    next hop =>
      split at h
      · cases h
      next hpol =>
        obtain rfl := Option.some.inj h
        have hxnor : useXnor (unstage1 c) = !bitX c := Bool.eq_not.2 (Ne.symm hop)
        exact ⟨(baseWord_unstage1 hxnor).symm, by rw [flagX, hxnor, Bool.not_not], hpol⟩
  case mpr =>
    rintro ⟨hbase, hX, hpol⟩
    have hop : ¬ bitX c = useXnor d := by rw [hX, flagX]; exact Bool.not_ne_self _
    rw [unstage1_eq_of_baseOf hbase hX, if_neg hop, if_neg hpol]

/-- Settles O51: both answer a byte exactly at the candidates of that byte. -/
theorem directDecoderAgrees : Obligations.DirectDecoderAgrees := fun _ _ =>
  Option.ext fun _ => decode10_eq_some_iff.trans dataReverse_eq_some_iff.symm

end Sys2Proof.Machine
end

section
/-! Distance 0 (spec R124), and a few words written out from the encoding tables (spec R43, R45, R57). -/

namespace Sys2Proof.Machine

/-- The search of a set with an element in it answers, and finds distance 0 exactly for a member. -/
theorem exists_nearestValid {S : CodewordSet} (hne : ∃ t, inSet t S = true) (c : Codeword) :
    ∃ d near, nearestValid c S = some (d, near) ∧ (d = 0 ↔ inSet c S = true) := by
  obtain ⟨t, ht⟩ := hne
  have hsome : nearestValid c S ≠ none := fun hnone => by
    rw [nearestValid_eq_none_iff.1 hnone] at ht
    simp at ht
  obtain ⟨⟨d, near⟩, hr⟩ := Option.ne_none_iff_exists'.1 hsome
  exact ⟨d, near, hr, (nearestValid_eq_some_iff.1 hr).dist_eq_zero_iff⟩

/-- Settles O56: both sets have elements, and `classify` says which codewords are members. -/
theorem zeroDistanceMeansMember : Obligations.ZeroDistanceMeansMember := by
  intro cfg c
  obtain ⟨t, ht⟩ := exists_isData cfg
  refine ⟨?valid, ?data⟩
  case valid =>
    rw [← inSet_validSet_iff_classify]
    exact exists_nearestValid ⟨t, (inSet_validSet cfg t).2 (.inl ht)⟩ c
  case data =>
    rw [← inSet_dataSet_iff_classify]
    exact exists_nearestValid ⟨t, (inSet_dataSet _ t).2 ht⟩ c

/-- Settles O6: eight fixed words, decoded by evaluation; the control codeword rests on log 2. -/
theorem decodesWrittenWords : Obligations.DecodesWrittenWords := by
  unfold Obligations.DecodesWrittenWords
  decide +kernel

end Sys2Proof.Machine
end
